-- ==== Sys2Proof/Word.lean ====
section
/-! DEFINITION. The word types of the PCE: 32-bit registers, bytes of buffer memory, packed 16-bit colours (00_scope.md R5). -/

namespace Sys2Proof

/-- A 32-bit register or command word (R5, R120). -/
abbrev Word := BitVec 32

/-- A byte of buffer memory or one colour channel (R5). -/
abbrev Byte := BitVec 8

/-- A packed 16-bit colour (R91). -/
abbrev Half := BitVec 16

end Sys2Proof
end

