-- ==== Sys2Proof/Syntax.lean ====
section
/-! DEFINITION. The commands of the PCE, one constructor for each row of spec/opcode_table.json (30_encoding.md R122). -/

namespace Sys2Proof

/-- A command. PAL_SET alone has an operand in its word, the 8-bit immediate T (R124); every other operand is in a
register or in buffer memory. -/
inductive Instr where
  /-- PAL_LOAD (R155). -/
  | palLoad
  /-- PAL_SAVE (R163). -/
  | palSave
  /-- PAL_SET t (R166). -/
  | palSet (t : Byte)
  /-- PAL_SWATCH (R170). -/
  | palSwatch
  /-- PAL_INVAL (R176). -/
  | palInval
  /-- LOOKUP (R201). -/
  | lookup
  /-- CV2_ENC.8 (R223). -/
  | cv2Enc8
  /-- CV2_ENC.16 (R224). -/
  | cv2Enc16
  /-- CV2_ENC.24 (R225). -/
  | cv2Enc24
  /-- CV2_ENC.32 (R226). -/
  | cv2Enc32
  /-- CV2_DEC (R250). -/
  | cv2Dec
  deriving DecidableEq, Repr

end Sys2Proof
end

