-- ==== Sys2Proof/WellFormed.lean ====
section
/-! DEFINITION. Which command words are legal, written from the must-be-zero rules of 30_encoding.md R125 and
independent of the decoder, and which access forms the register window accepts (10_state.md R47). -/

namespace Sys2Proof

/-- R125(a): OP is none of 0x0, 0x9-0xF. -/
def opAssigned (v : Word) : Bool :=
  let op := v.extractLsb' 0 4
  1#4 ≤ op && op ≤ 8#4

/-- R125(b), every OP: bits 31:16 and 7:6 are 0. -/
def reservedClear (v : Word) : Bool := v.extractLsb' 16 16 == 0#16 && v.extractLsb' 6 2 == 0#2

/-- R125(b), every OP other than 0x3: bits 15:8 are 0. -/
def immediateClear (v : Word) : Bool := v.extractLsb' 0 4 == 3#4 || v.extractLsb' 8 8 == 0#8

/-- R125(b), every OP other than 0x7: bits 5:4 are 0. -/
def depthSelectClear (v : Word) : Bool := v.extractLsb' 0 4 == 7#4 || v.extractLsb' 4 2 == 0#2

/-- A legal command word: none of the conditions of R125 holds. -/
def wordLegal (v : Word) : Bool := opAssigned v && reservedClear v && immediateClear v && depthSelectClear v

/-- A command is well-formed: every value 0-255 of T is legal (R124) and no other command has an operand, so the types
of Instr's fields already admit exactly the legal operands. -/
def Instr.wellFormed : Instr → Bool
  | .palSet t => decide (t.toNat ≤ 255)
  | .palLoad | .palSave | .palSwatch | .palInval | .lookup => true
  | .cv2Enc8 | .cv2Enc16 | .cv2Enc24 | .cv2Enc32 | .cv2Dec => true

/-- The register window accepts only 32-bit accesses at offsets that are multiples of 4 (R47). -/
def accessWellFormed (width : Nat) (off : BitVec 11) : Bool := width == 32 && off.toNat % 4 == 0

end Sys2Proof
end

