-- ==== Sys2Proof/Decode.lean ====
section
/-! DEFINITION. Command words: decoding (30_encoding.md R120-R125), then the encoder written from the same table, then the
mask and match table of R126. -/

namespace Sys2Proof

/-- Why a word is illegal (R125). Every reason completes with the one error ILLEGAL_CMD (R308). -/
inductive Reject where
  /-- OP is 0x0 or 0x9-0xF. -/
  | reservedOp
  /-- A bit of 31:16 or 7:6 is 1. -/
  | reservedBits
  /-- DSEL is not 0 and OP is not 0x7. -/
  | depthSelect
  /-- T is not 0 and OP is not 0x3. -/
  | immediate
  deriving DecidableEq, Repr

/-- OP, bits 3:0 (R120). -/
def opField (v : Word) : BitVec 4 := v.extractLsb' 0 4
/-- DSEL, bits 5:4 (R120). -/
def dselField (v : Word) : BitVec 2 := v.extractLsb' 4 2
/-- T, bits 15:8 (R120). -/
def tField (v : Word) : Byte := v.extractLsb' 8 8
/-- The reserved bits 31:16 and 7:6 (R120). -/
def reservedField (v : Word) : BitVec 18 := v.extractLsb' 16 16 ++ v.extractLsb' 6 2

/-- A command with neither a depth select nor an immediate: both fields must be 0 (R125). -/
def plainCommand (v : Word) (i : Instr) : Except Reject Instr :=
  if dselField v ≠ 0 then .error .depthSelect
  else if tField v ≠ 0 then .error .immediate
  else .ok i

/-- CV2_ENC's depth, chosen by DSEL (R123). -/
def encodeCommand (dsel : BitVec 2) : Instr :=
  if dsel = 0 then .cv2Enc8 else if dsel = 1 then .cv2Enc16 else if dsel = 2 then .cv2Enc24 else .cv2Enc32

/-- The opcode map (R122), after the reserved bits are known to be 0. -/
def decodeOp (v : Word) : Except Reject Instr :=
  match (opField v).toNat with
  | 1 => plainCommand v .palLoad
  | 2 => plainCommand v .palSave
  | 3 => if dselField v ≠ 0 then .error .depthSelect else .ok (.palSet (tField v))
  | 4 => plainCommand v .palSwatch
  | 5 => plainCommand v .palInval
  | 6 => plainCommand v .lookup
  | 7 => if tField v ≠ 0 then .error .immediate else .ok (encodeCommand (dselField v))
  | 8 => plainCommand v .cv2Dec
  | _ => .error .reservedOp

/-- Decoding is total: a command, or the reason the word is illegal (R122, R125). -/
def decode (v : Word) : Except Reject Instr :=
  if reservedField v ≠ 0 then .error .reservedBits else decodeOp v

/-- The CMDW format (R120), reserved bits 0. -/
def cmdw (op : BitVec 4) (dsel : BitVec 2) (t : Byte) : Word := 0#16 ++ t ++ 0#2 ++ dsel ++ op

/-- The exact words of R122. -/
def encode : Instr → Word
  | .palLoad => cmdw 1 0 0
  | .palSave => cmdw 2 0 0
  | .palSet t => cmdw 3 0 t
  | .palSwatch => cmdw 4 0 0
  | .palInval => cmdw 5 0 0
  | .lookup => cmdw 6 0 0
  | .cv2Enc8 => cmdw 7 0 0
  | .cv2Enc16 => cmdw 7 1 0
  | .cv2Enc24 => cmdw 7 2 0
  | .cv2Enc32 => cmdw 7 3 0
  | .cv2Dec => cmdw 8 0 0

/-- One row of the opcode table as a mask and a match over the 32-bit word (R126). -/
structure OpcodeRow where
  mnemonic : String
  mask : Word
  value : Word
  deriving DecidableEq, Repr

/-- The rows of spec/opcode_table.json (R126). -/
def opcodeRows : List OpcodeRow :=
  [ ⟨"PAL_LOAD", 0xFFFFFFFF, 0x00000001⟩, ⟨"PAL_SAVE", 0xFFFFFFFF, 0x00000002⟩,
    ⟨"PAL_SET", 0xFFFF00FF, 0x00000003⟩, ⟨"PAL_SWATCH", 0xFFFFFFFF, 0x00000004⟩,
    ⟨"PAL_INVAL", 0xFFFFFFFF, 0x00000005⟩, ⟨"LOOKUP", 0xFFFFFFFF, 0x00000006⟩ ] ++
  [ ⟨"CV2_ENC.8", 0xFFFFFFFF, 0x00000007⟩, ⟨"CV2_ENC.16", 0xFFFFFFFF, 0x00000017⟩,
    ⟨"CV2_ENC.24", 0xFFFFFFFF, 0x00000027⟩, ⟨"CV2_ENC.32", 0xFFFFFFFF, 0x00000037⟩,
    ⟨"CV2_DEC", 0xFFFFFFFF, 0x00000008⟩ ]

/-- A row matches a word: `(v & mask) == match` (R126). -/
def OpcodeRow.hits (r : OpcodeRow) (v : Word) : Bool := v &&& r.mask == r.value

/-- The command the decoder reads from a word given as a number of `nbits` bits. A command is exactly one 32-bit
register value (R127), so there is nothing to lay out in memory. -/
def decodeTableWord (nbits w : Nat) : Option Instr :=
  if nbits ≤ 32 ∧ w < 2 ^ nbits then
    match decode (BitVec.ofNat 32 w) with
    | .ok i => some i
    | .error _ => none
  else none

end Sys2Proof
end

