-- ==== Sys2Proof/Config.lean ====
section
/-! DEFINITION. What an implementation fixes (the named parameters of 00_scope.md R5) and the free values of the model. -/

namespace Sys2Proof

/-- The named parameters that the spec leaves OPEN and a model takes as arguments (R5; 92_eei_decisions.md D4, D16).
They stand in State as the field `cfg`, which no step changes, so that a statement about every state holds for every
value of them (assumption 2, DESIGN CHOICE). -/
structure Params where
  /-- The highest buffer-memory address, `MEM_SIZE - 1`: every value gives a legal size, 1 ≤ MEM_SIZE ≤ 2^32 (R5, R80). -/
  memTop : Word
  /-- `SWATCH_INDEX0_RGB`: R in bits 7:0, G in 15:8, B in 23:16 (R172). -/
  swatchIndex0Rgb : BitVec 24
  deriving DecidableEq, Repr

/-- `MEM_SIZE`, the number of bytes of buffer memory (R5, R80). -/
def Params.memSize (p : Params) : Nat := p.memTop.toNat + 1

/-- The free values of the model: byte `k` of the `n`-th time the spec leaves bytes unspecified
(93_implementation_defined.md I4, I5). It has no body, so nothing can be proved of its value; State's counter `free` says
how many times bytes have been drawn (assumption 5, DESIGN CHOICE). -/
opaque Config.freeByte : Nat → Nat → Byte

end Sys2Proof
end

