-- ==== Sys2Proof/Machine/State.lean ====
section
/-! DEFINITION. The state of the PCE (10_state.md), of the host that drives it (00_scope.md R10), and the state after
reset (10_state.md R52). All of it is plain data. -/

namespace Sys2Proof.Machine

/-- A Color: four unsigned 8-bit channels (R8). -/
structure Color where
  r : Byte
  g : Byte
  b : Byte
  a : Byte
  deriving DecidableEq, Repr, Inhabited

/-- The engine is a two-state machine (R31). -/
inductive Engine where
  | idle
  | busy
  deriving DecidableEq, Repr

/-- The error codes of STATUS.ERR (R301). Codes 9 to 15 are never produced, so they have no constructor. -/
inductive ErrCode where
  | none
  | alreadyExists
  | format
  | unsupportedFormat
  | missingPalette
  | invalidSize
  | illegalCmd
  | capacity
  | range
  deriving DecidableEq, Repr

/-- The operands the engine latches when it accepts a command (R51(b), R121). -/
structure Latch where
  cmd : Word
  srcAddr : Word
  srcLen : Word
  dstAddr : Word
  dstCap : Word
  width : Word
  height : Word
  color : Word
  deriving DecidableEq, Repr

/-- The registers of the register window, by name (R32). -/
inductive Reg where
  | ctrl
  | status
  | cmd
  | srcAddr
  | srcLen
  | dstAddr
  | dstCap
  | width
  | height
  | stride
  | depth
  | color
  | result
  | tidx
  | outLen
  /-- `PAL[i]`, at offset 0x400 + 4·i. -/
  | pal (i : Byte)
  deriving DecidableEq, Repr

/-- One statement of the host (R10, R128, R129): what the outside world can do to the machine. An offset has 11 bits,
so it always lies inside the 0x800-byte register window (R32; assumption 14). -/
inductive HostOp where
  /-- `W`: a register write of `width` bits at byte offset `off` (R45, R47). -/
  | regWrite (width : Nat) (off : BitVec 11) (v : Word)
  /-- `R`: a register read of `width` bits at byte offset `off` (R46, R47). -/
  | regRead (width : Nat) (off : BitVec 11)
  /-- `MEMW`: writes bytes to buffer memory at ascending addresses (R100, R128). -/
  | memWrite (addr : Word) (bytes : List Byte)
  /-- `MEMR`: reads `n` bytes of buffer memory (R100, R128). -/
  | memRead (addr : Word) (n : Nat)
  /-- `WAIT`: reads STATUS until BUSY is 0 (R129). -/
  | waitIdle
  /-- The reset input `rst` is pulsed (R340; assumption 10). -/
  | rst
  deriving DecidableEq, Repr

/-- What one read of the host returned. -/
inductive ReadBack where
  | word (v : Word)
  | bytes (bs : List Byte)
  deriving DecidableEq, Repr

/-- Buffer memory: (address, byte) pairs, addresses strictly rising, no entry equal to what an unlisted address reads
as (`Memory.wf` in Machine/Ops.lean). -/
abbrev Memory := List Host.Cell

/-- The state. Fields of the spec: the register window (R33-R44), the palette store (R49), buffer memory (R80), and the
hidden state of R51. Fields of the model: `cfg`, `wait`, `latencies`, `free`, `script`, `reads` (assumptions 1, 2, 5, 8, 15). -/
structure State where
  /-- The named parameters of the block; no step changes them (R5; assumption 2). -/
  cfg : Params
  /-- IDLE or BUSY (R31, R35). -/
  engine : Engine
  /-- CTRL.IE (R33). -/
  ie : Bool
  /-- STATUS.DONE (R34). -/
  done : Bool
  /-- STATUS.DST_OCC (R36). -/
  dstOcc : Bool
  /-- STATUS.ERR (R37). -/
  err : ErrCode
  /-- STATUS.PAL_VALID (R38). -/
  palValid : Bool
  /-- STATUS.TVALID (R38). -/
  tvalid : Bool
  /-- CMD (R39). -/
  cmd : Word
  /-- SRC_ADDR (R40). -/
  srcAddr : Word
  /-- SRC_LEN (R40). -/
  srcLen : Word
  /-- DST_ADDR (R40). -/
  dstAddr : Word
  /-- DST_CAP (R40). -/
  dstCap : Word
  /-- WIDTH (R41). -/
  width : Word
  /-- HEIGHT (R41). -/
  height : Word
  /-- STRIDE (R42). -/
  stride : Word
  /-- DEPTH bits 7:0 (R42). -/
  depth : Byte
  /-- COLOR (R43). -/
  color : Word
  /-- RESULT.INDEX (R43). -/
  resultIndex : Byte
  /-- RESULT.HIT (R43). -/
  resultHit : Bool
  /-- TIDX bits 7:0 (R44). -/
  tidx : Byte
  /-- OUT_LEN (R44). -/
  outLen : Word
  /-- The palette store (R49). -/
  pal : Vector Color 256
  /-- Buffer memory (R80). -/
  mem : Memory
  /-- The operands of the last accepted command (R51(b)). -/
  latch : Latch
  /-- Host turns left before the running command completes (R349; assumption 8). -/
  wait : Nat
  /-- The latency, in host turns, of each command still to come; none listed is 0 (R349; assumption 8). -/
  latencies : List Nat
  /-- How many times unspecified bytes have been drawn (assumption 5). -/
  free : Nat
  /-- The statements the host still has to run (R128; assumption 1). -/
  script : List HostOp
  /-- What the host has read, newest first (R128; assumption 15). -/
  reads : List ReadBack
  deriving DecidableEq, Repr

/-- Why the machine stops with a fault. Only the host's accesses to buffer memory raise one. -/
inductive Fault where
  /-- Raised by `hostMemAccess` when the host touches, while the engine is BUSY, a byte of the running command's source
  or destination window: R100 and R345 say a model treats it as a fault. Safe. -/
  | bufferHazard
  /-- Raised by `hostMemAccess` when the host touches an address that buffer memory does not have (R80; assumption 13). Safe. -/
  | bufferOutside
  deriving DecidableEq, Repr

/-- Why a step has no meaning. -/
inductive Refusal where
  /-- Raised only by an arm of `exec` whose command has no meaning yet; no arm is left so. Safe. -/
  | notModelled (mnemonic : String)
  /-- Raised by `hostRegWrite` and `hostRegRead` for a register access that is not 32 bits wide or not at a multiple
  of 4: R47 says a model refuses it. Safe. -/
  | busError
  deriving DecidableEq, Repr

/-- The latched operands before any command: hidden, no rule reads them (assumption 6, DESIGN CHOICE). -/
def Latch.reset : Latch := ⟨0, 0, 0, 0, 0, 0, 0, 0⟩

/-- The machine right after reset (R52, R340): every register and flag 0, engine IDLE. The spec states no value for the
parameters (assumption 2), the palette store (assumption 4), buffer memory (assumption 3), the latched operands
(assumption 6) or the model's own fields (assumptions 5, 8, 11, 15): those are DESIGN CHOICES. -/
def State.reset : State where
  cfg := ⟨0xFFFF, 0⟩
  engine := .idle
  ie := false
  done := false
  dstOcc := false
  err := .none
  palValid := false
  tvalid := false
  cmd := 0
  srcAddr := 0
  srcLen := 0
  dstAddr := 0
  dstCap := 0
  width := 0
  height := 0
  stride := 0
  depth := 0
  color := 0
  resultIndex := 0
  resultHit := false
  tidx := 0
  outLen := 0
  pal := Vector.ofFn fun _ => ⟨0, 0, 0, 0⟩
  mem := []
  latch := Latch.reset
  wait := 0
  latencies := []
  free := 0
  script := []
  reads := []

end Sys2Proof.Machine
end

