-- ==== Sys2Proof/Machine/Flags.lean ====
section
/-! DEFINITION. Every flag computation: the error codes, the STATUS word and the interrupt output (10_state.md R34,
60_exceptions.md R301, R310). -/

namespace Sys2Proof.Machine

/-- The number of an error kind (R301). -/
def ErrCode.code : ErrCode → BitVec 4
  | .none => 0
  | .alreadyExists => 1
  | .format => 2
  | .unsupportedFormat => 3
  | .missingPalette => 4
  | .invalidSize => 5
  | .illegalCmd => 6
  | .capacity => 7
  | .range => 8

/-- STATUS.BUSY is 1 exactly while the engine is BUSY (R35). -/
def State.isBusy (s : State) : Bool := s.engine == .busy

/-- The STATUS word (R34): TVALID 9, PAL_VALID 8, ERR 7:4, DST_OCC 2, DONE 1, BUSY 0; bits 31:10 and 3 read 0. -/
def State.statusWord (s : State) : Word :=
  0#22 ++ BitVec.ofBool s.tvalid ++ BitVec.ofBool s.palValid ++ s.err.code ++ 0#1 ++ BitVec.ofBool s.dstOcc ++
    BitVec.ofBool s.done ++ BitVec.ofBool s.isBusy

/-- The RESULT word (R43): HIT 8, INDEX 7:0; bits 31:9 read 0. -/
def State.resultWord (s : State) : Word := 0#23 ++ BitVec.ofBool s.resultHit ++ s.resultIndex

/-- The CTRL word (R33): IE 0; bits 31:1 read 0. -/
def State.ctrlWord (s : State) : Word := 0#31 ++ BitVec.ofBool s.ie

/-- The interrupt output, a level signal (R310; assumption 20). -/
def State.irq (s : State) : Bool := s.ie && s.done

end Sys2Proof.Machine
end

