-- ==== Sys2Proof/Machine/Ops.lean ====
section
/-! DEFINITION. The named operations over buffer memory, windows and registers: byte access, accepting a command
(30_encoding.md R121), completing one with or without an error (60_exceptions.md R302, R303), drawing free values and
the reset input (70_reset_and_hazards.md R340, R341). -/

namespace Sys2Proof.Machine

/-! ### Buffer memory -/

/-- What an address with no entry reads as (assumption 3, DESIGN CHOICE). -/
def Memory.unlisted : Byte := 0

/-- `MemRead(a, 1)` (R7). -/
def Memory.read : Memory → Nat → Byte
  | [], _ => Memory.unlisted
  | (k, b) :: m, a => if k = a then b else Memory.read m a

/-- Puts a cell before the first higher address. -/
def Memory.insert : Memory → Nat → Byte → Memory
  | [], a, v => [(a, v)]
  | (k, b) :: m, a, v => if a < k then (a, v) :: (k, b) :: m else (k, b) :: Memory.insert m a v

/-- Takes every cell of an address out. -/
def Memory.erase : Memory → Nat → Memory
  | [], _ => []
  | (k, b) :: m, a => if k = a then Memory.erase m a else (k, b) :: Memory.erase m a

/-- `MemWrite(a, 1, v)` (R7): writing what an unlisted address reads as takes the entry out. -/
def Memory.write (m : Memory) (a : Nat) (v : Byte) : Memory :=
  if v = Memory.unlisted then m.erase a else (m.erase a).insert a v

/-- `MemRead(a, n)`: `n` bytes in ascending address order (R7). -/
def Memory.readBytes (m : Memory) (a n : Nat) : List Byte := (List.range n).map fun k => m.read (a + k)

/-- `MemWrite(a, n, bytes)`: bytes in ascending address order (R7). -/
def Memory.writeBytes : Memory → Nat → List Byte → Memory
  | m, _, [] => m
  | m, a, b :: bs => Memory.writeBytes (m.write a b) (a + 1) bs

/-- Every address of `m` is above `lo`, they rise, and no entry equals what an unlisted address reads as. -/
def Memory.wfFrom : Nat → Memory → Bool
  | _, [] => true
  | lo, (k, b) :: m => lo ≤ k && b != Memory.unlisted && Memory.wfFrom (k + 1) m

/-- The canonical form of buffer memory: equal memories are equal lists. -/
def Memory.wf (m : Memory) : Bool := Memory.wfFrom 0 m

/-- Every listed address exists in a memory of `n` bytes (R80). -/
def Memory.within (m : Memory) (n : Nat) : Bool := m.all fun c => c.1 < n

/-! ### Windows -/

/-- A byte range `[base, base + len)` of buffer memory (R9). -/
structure Window where
  base : Nat
  len : Nat
  deriving DecidableEq, Repr

/-- The window does not lie inside a memory of `n` bytes; the sum is mathematical (R6, R99). -/
def Window.outside (w : Window) (n : Nat) : Bool := n < w.base + w.len

/-- Two windows share a byte; a window of length 0 overlaps nothing (R99). -/
def Window.overlaps (w v : Window) : Bool :=
  0 < w.len && 0 < v.len && w.base < v.base + v.len && v.base < w.base + w.len

/-- `[SRC_ADDR, SRC_ADDR + SRC_LEN)` as latched (R40, R121). -/
def State.srcWindow (s : State) : Window := ⟨s.latch.srcAddr.toNat, s.latch.srcLen.toNat⟩

/-- `[DST_ADDR, DST_ADDR + DST_CAP)` as latched (R40, R121). -/
def State.dstWindow (s : State) : Window := ⟨s.latch.dstAddr.toNat, s.latch.dstCap.toNat⟩

/-- The commands that read a source window (R98, R99). -/
def usesSrc : Instr → Bool
  | .palLoad | .palSet _ | .palSwatch => true
  | .cv2Enc8 | .cv2Enc16 | .cv2Enc24 | .cv2Enc32 | .cv2Dec => true
  | .palSave | .palInval | .lookup => false

/-- The commands that write a destination window (R98, R99). -/
def usesDst : Instr → Bool
  | .palSave | .cv2Enc8 | .cv2Enc16 | .cv2Enc24 | .cv2Enc32 | .cv2Dec => true
  | .palLoad | .palSet _ | .palSwatch | .palInval | .lookup => false

/-- The latched command, if its word is legal (R121). -/
def State.running (s : State) : Option Instr :=
  match decode s.latch.cmd with
  | .ok i => some i
  | .error _ => none

/-- The windows of the running command: those it uses (R98, R100; assumption 12, DEDUCED). None while IDLE. -/
def State.runningWindows (s : State) : List Window :=
  match s.isBusy, s.running with
  | true, some i =>
    (if usesSrc i then [s.srcWindow] else []) ++ (if usesDst i then [s.dstWindow] else [])
  | _, _ => []

/-! ### Checks, completion and acceptance -/

/-- A check: whether its error applies, and the error. -/
abbrev Check := Bool × ErrCode

/-- The first error that applies, in the order of the list (R304). -/
def firstError : List Check → Option ErrCode
  | [] => none
  | (bad, e) :: rest => if bad then some e else firstError rest

/-- Steps 2 and 3 of R304: ALREADY_EXISTS (R305), then the RANGE checks of R99 for the source window, the destination
window and their overlap, each only for a command that uses those windows. -/
def commonChecks (i : Instr) (s : State) : List Check :=
  [ (usesDst i && s.dstOcc, .alreadyExists),
    (usesSrc i && s.srcWindow.outside s.cfg.memSize, .range),
    (usesDst i && s.dstWindow.outside s.cfg.memSize, .range),
    (usesSrc i && usesDst i && s.srcWindow.overlaps s.dstWindow, .range) ]

/-- Completion (R302, R303): ERR takes the code, DONE is set, BUSY is cleared and the engine is IDLE. It is the one place
where the PCE takes an error: there is no trap entry and no trap return (R312). -/
def State.finish (s : State) (e : ErrCode) : State := { s with err := e, done := true, engine := .idle, wait := 0 }

/-- Runs a command: the first check that applies ends it with that error and nothing else changed (R302); otherwise its
writes are applied and it completes without error, as one step (R303, R53). -/
def runCommand (checks : List Check) (effect : State → State) (s : State) : Host.Outcome State Fault Refusal :=
  match firstError checks with
  | some e => .next (s.finish e)
  | none => .next ((effect s).finish .none)

/-- What the engine latches of the registers when it accepts word `v` (R51(b), R121; assumption 6). -/
def State.operands (s : State) (v : Word) : Latch :=
  ⟨v, s.srcAddr, s.srcLen, s.dstAddr, s.dstCap, s.width, s.height, s.color⟩

/-- Accepting the command word `v`: `CMD <- v`, ERR and DONE cleared, BUSY set, operands latched (R121). -/
def State.accept (s : State) (v : Word) : State :=
  { s with cmd := v, err := .none, done := false, engine := .busy, latch := s.operands v }

/-- A host write of `v` to CMD while IDLE (R121). A legal command completes after as many host turns as its latency says
(R349; assumption 8); an illegal word completes at once (R308; assumption 9). -/
def State.issue (s : State) (v : Word) : State :=
  match decode v with
  | .ok _ => { s.accept v with wait := s.latencies.headD 0, latencies := s.latencies.tail }
  | .error _ => { s.accept v with wait := 0 }

/-! ### Free values and reset -/

/-- A palette store written whole, entry by entry (R49). It is irreducible so that comparing two states never evaluates
256 entries; `palOf_get` says what it holds. -/
@[irreducible] def palOf (f : Nat → Color) : Vector Color 256 := Vector.ofFn fun i => f i.val

/-- A palette store of unspecified contents, the `n`-th draw (93_implementation_defined.md I4). -/
def freePalette (n : Nat) : Vector Color 256 :=
  palOf fun i => ⟨Config.freeByte n (4 * i), Config.freeByte n (4 * i + 1), Config.freeByte n (4 * i + 2),
    Config.freeByte n (4 * i + 3)⟩

/-- `k` unspecified bytes, the `n`-th draw (I5). -/
def freeBytes (n k : Nat) : List Byte := (List.range k).map (Config.freeByte n)

/-- The palette store becomes unspecified (R176, R341; assumption 5). -/
def State.forgetPalette (s : State) : State := { s with pal := freePalette s.free, free := s.free + 1 }

/-- The bytes of a window of memory become unspecified: any byte may be any value (R341; assumption 5). Only bytes that
memory has are concerned. -/
def State.forgetWindow (s : State) (w : Window) : State :=
  { s with
    mem := s.mem.writeBytes w.base (freeBytes s.free (min w.len (s.cfg.memSize - w.base))), free := s.free + 1 }

/-- A reset cuts a running command short: the bytes of the destination window it uses become unspecified (R341;
assumption 17). -/
def State.abandon (s : State) : State :=
  match s.isBusy, s.running with
  | true, some i => if usesDst i then s.forgetWindow s.dstWindow else s
  | _, _ => s

/-- The reset input (R340-R342): every register and flag takes the value of R52, the palette store becomes unspecified,
buffer memory is kept but for the window of a command cut short. The host and the parameters are not reset
(assumption 10). -/
def State.pulseReset (s : State) : State :=
  let t := s.abandon.forgetPalette
  { State.reset with
    cfg := t.cfg, pal := t.pal, mem := t.mem, free := t.free, latencies := t.latencies, script := t.script,
    reads := t.reads }

end Sys2Proof.Machine
end

