-- ==== Sys2Proof/Machine/Operands.lean ====
section
/-! DEFINITION. Every operand form: little-endian fields (20_memory.md R81, 00_scope.md R7), signed dimensions (R6, R221),
colours in memory and in a word (R95, R43, R50), packed colours of a PAL image (R90), the CV2 header (R92). -/

namespace Sys2Proof.Machine

/-- `s32(v)`: a 32-bit pattern as a two's-complement integer (R6). -/
def s32 (v : Word) : Int := v.toInt

/-- `le16(b0, b1) = {b1, b0}` (R7). -/
def le16 (b0 b1 : Byte) : Half := b1 ++ b0

/-- `le32(b0..b3) = {b3, b2, b1, b0}` (R7). -/
def le32 (b0 b1 b2 b3 : Byte) : Word := b3 ++ b2 ++ b1 ++ b0

/-- The two bytes of a packed colour in ascending address order (R81). -/
def bytesLE16 (w : Half) : List Byte := [w.extractLsb' 0 8, w.extractLsb' 8 8]

/-- `bytes_le32(v)` (R7). -/
def bytesLE32 (v : Word) : List Byte :=
  [v.extractLsb' 0 8, v.extractLsb' 8 8, v.extractLsb' 16 8, v.extractLsb' 24 8]

/-- A 32-bit little-endian field at address `a` (R81). -/
def Memory.word (m : Memory) (a : Nat) : Word := le32 (m.read a) (m.read (a + 1)) (m.read (a + 2)) (m.read (a + 3))

/-- A 16-bit little-endian field at address `a` (R81). -/
def Memory.half (m : Memory) (a : Nat) : Half := le16 (m.read a) (m.read (a + 1))

/-- A raster pixel at address `a`: bytes R, G, B, A (R95). -/
def Memory.color (m : Memory) (a : Nat) : Color := ⟨m.read a, m.read (a + 1), m.read (a + 2), m.read (a + 3)⟩

/-- The raster bytes of a Color: R, G, B, A (R95). -/
def Color.bytes (c : Color) : List Byte := [c.r, c.g, c.b, c.a]

/-- A Color as a 32-bit word `{A, B, G, R}` (R50, R95). -/
def Color.word (c : Color) : Word := c.a ++ c.b ++ c.g ++ c.r

/-- The Color a 32-bit word holds: R 7:0, G 15:8, B 23:16, A 31:24 (R43). -/
def colorOfWord (v : Word) : Color :=
  ⟨v.extractLsb' 0 8, v.extractLsb' 8 8, v.extractLsb' 16 8, v.extractLsb' 24 8⟩

/-- Where pixel (x, y) of a raster of width `w` starts, from its base (R95). -/
def pixelOffset (w x y : Nat) : Nat := (y * w + x) * 4

/-- Palette word `i` of the PAL image at `src` (R90, R158). -/
def Memory.palWord (m : Memory) (src i : Nat) : Half := m.half (src + 1 + 2 * i)

end Sys2Proof.Machine
end

