-- ==== Sys2Proof/Machine/Codec.lean ====
section
/-! DEFINITION. The conversion functions that the command families share: the packed-16 codec (40_palette.md R150, R151), the
exact-match search (41_quantizer.md R200), the bit depths (20_memory.md R94) and the pack and unpack multiplexers
(42_cv2_encode.md R222-R226, 43_cv2_decode.md R258-R260). -/

namespace Sys2Proof.Machine

/-- `FromPacked16(w)` (R150): A is 255 or 0 by bit 15, each colour channel is its 5 bits shifted left by 3. -/
def fromPacked16 (w : Half) : Color where
  r := (w.extractLsb' 10 5).zeroExtend 8 <<< 3
  g := (w.extractLsb' 5 5).zeroExtend 8 <<< 3
  b := (w.extractLsb' 0 5).zeroExtend 8 <<< 3
  a := if w.getLsbD 15 then 255 else 0

/-- `ToPacked16(c)` (R151): the top 5 bits of each channel, and bit 15 = 0 exactly when A is 0. -/
def toPacked16 (c : Color) : Half :=
  BitVec.ofBool (c.a != 0) ++ c.r.extractLsb' 3 5 ++ c.g.extractLsb' 3 5 ++ c.b.extractLsb' 3 5

/-- `FindIndex(c)` (R200): the lowest index whose entry equals `c` in all four channels with hit 1, else TIDX with hit 0. -/
def findIndex (pal : Vector Color 256) (tidx : Byte) (c : Color) : Byte × Bool :=
  match pal.toList.findIdx? fun e => e == c with
  | some i => (BitVec.ofNat 8 i, true)
  | none => (tidx, false)

/-- The bit depths of CV2 (R92, R94). -/
inductive Depth where
  | d8
  | d16
  | d24
  | d32
  deriving DecidableEq, Repr

/-- The header's bitDepth byte (R92, R123). -/
def depthByte : Depth → Byte
  | .d8 => 8
  | .d16 => 16
  | .d24 => 24
  | .d32 => 32

/-- The depth a bitDepth byte names; any other value is none (R252). -/
def depthOfByte (b : Byte) : Option Depth :=
  if b = 8 then some .d8 else if b = 16 then some .d16 else if b = 24 then some .d24
  else if b = 32 then some .d32 else none

/-- `psize` (R94): the bytes of one CV2 pixel. -/
def psize : Depth → Nat
  | .d8 => 1
  | .d16 => 2
  | .d24 => 4
  | .d32 => 4

/-- `header(n, W, H)` (R222): stride = width, reserved = 0. -/
def cv2Header (d : Depth) (w h : Word) : List Byte :=
  depthByte d :: (bytesLE32 w ++ bytesLE32 h ++ bytesLE32 w ++ bytesLE32 0)

/-- `PACK_n` (R223-R226). -/
def packPixel (d : Depth) (pal : Vector Color 256) (tidx : Byte) (c : Color) : List Byte :=
  match d with
  | .d8 => [(findIndex pal tidx c).1]
  | .d16 => bytesLE16 (toPacked16 c)
  | .d24 => [c.b, c.g, c.r, c.a]
  | .d32 => [c.b, c.g, c.r, c.a]

/-- `UNPACK_d` of the pixel whose bytes start at address `p` (R258-R260). -/
def unpackPixel (d : Depth) (pal : Vector Color 256) (m : Memory) (p : Nat) : Color :=
  match d with
  | .d8 => pal.get (m.read p).toFin
  | .d16 => fromPacked16 (m.half p)
  | .d24 => ⟨m.read (p + 2), m.read (p + 1), m.read p, m.read (p + 3)⟩
  | .d32 => ⟨m.read (p + 2), m.read (p + 1), m.read p, m.read (p + 3)⟩

end Sys2Proof.Machine
end

