-- ==== Sys2Proof/Machine/Cv2Decode.lean ====
section
/-! DEFINITION. CV2_DEC, the unpack multiplexer and stride handler (43_cv2_decode.md). -/

namespace Sys2Proof.Machine

/-- Header byte 0, bitDepth (R92). -/
def headerDepth (s : State) : Option Depth := depthOfByte (s.mem.read s.srcWindow.base)

/-- Header bytes 1-4, width (R92). -/
def headerWidth (s : State) : Word := s.mem.word (s.srcWindow.base + 1)

/-- Header bytes 5-8, height (R92). -/
def headerHeight (s : State) : Word := s.mem.word (s.srcWindow.base + 5)

/-- Header bytes 9-12, stride (R92). Bytes 13-16 are not examined (R263). -/
def headerStride (s : State) : Word := s.mem.word (s.srcWindow.base + 9)

/-- The checks of R265 after the common ones. Once the dimensions are legal their unsigned values equal the s32 ones. -/
def decodeChecks (s : State) : List Check :=
  let w := headerWidth s
  let h := headerHeight s
  let st := headerStride s
  let dims : Check := (decide (s32 w < 1 ∨ s32 h < 1 ∨ s32 st < s32 w), .format)
  let cap : Check := (decide (s.latch.dstCap.toNat < w.toNat * h.toNat * 4), .capacity)
  (decide (s.latch.srcLen.toNat < 17), .format) ::
    match headerDepth s with
    | none => [(true, .unsupportedFormat)]
    | some d =>
      [ (d == .d8 && !s.palValid, .missingPalette), dims,
        (decide (s.latch.srcLen.toNat - 17 < h.toNat * st.toNat * psize d), .format), cap ]

/-- The raster bytes of the decode loop (R257, R261): `stride` columns of each row are consumed and the first `w` kept.
The pixel of row `y`, column `x` starts at body offset `(y·stride + x)·psize` (R93). -/
def decodeBody (d : Depth) (s : State) (body w h st : Nat) : List Byte :=
  (List.range h).flatMap fun y =>
    (List.range st).flatMap fun x =>
      if x < w then (unpackPixel d s.pal s.mem (body + (y * st + x) * psize d)).bytes else []

/-- The raster that CV2_DEC writes. -/
def decodeImage (d : Depth) (s : State) : List Byte :=
  decodeBody d s (s.srcWindow.base + 17) (headerWidth s).toNat (headerHeight s).toNat (headerStride s).toNat

/-- CV2_DEC's writes for a header of depth `d` (R250, R262). -/
def decodeWrites (d : Depth) (s : State) : State :=
  { s with
    mem := s.mem.writeBytes s.dstWindow.base (decodeImage d s)
    width := headerWidth s, height := headerHeight s, stride := headerStride s, depth := depthByte d
    outLen := BitVec.ofNat 32 ((headerWidth s).toNat * (headerHeight s).toNat * 4), dstOcc := true }

/-- The effect runs only where the checks have found a legal depth. -/
def decodeEffect (s : State) : State :=
  match headerDepth s with
  | some d => decodeWrites d s
  | none => s

/-- CV2_DEC (R250-R265). -/
def execCv2Dec (s : State) : Host.Outcome State Fault Refusal :=
  runCommand (commonChecks .cv2Dec s ++ decodeChecks s) decodeEffect s

end Sys2Proof.Machine
end

