-- ==== Sys2Proof/Machine/Cv2Encode.lean ====
section
/-! DEFINITION. CV2_ENC.8, .16, .24 and .32, the pack multiplexer (42_cv2_encode.md). What the four share is written once, for a
bit depth (R220). -/

namespace Sys2Proof.Machine

/-- `N`, the size of a CV2 image without padding columns (R220). -/
def cv2Size (d : Depth) (w h : Nat) : Nat := 17 + w * h * psize d

/-- The checks of R227 after the common ones. WIDTH and HEIGHT are read as s32; once both are at least 1 their unsigned
values are the same (R221). -/
def encodeChecks (d : Depth) (s : State) : List Check :=
  let w := s.latch.width
  let h := s.latch.height
  [ (d == .d8 && !s.palValid, .missingPalette),
    (decide (s32 w < 1 ∨ s32 h < 1), .format),
    (decide (s.latch.srcLen.toNat < w.toNat * h.toNat * 4), .format),
    (decide (s.latch.dstCap.toNat < cv2Size d w.toNat h.toNat), .capacity) ]

/-- The packed pixels of a `w`×`h` raster at `src`, in row-major order (R220). -/
def encodeBody (d : Depth) (s : State) (src w h : Nat) : List Byte :=
  (List.range h).flatMap fun y =>
    (List.range w).flatMap fun x => packPixel d s.pal s.tidx (s.mem.color (src + pixelOffset w x y))

/-- The CV2 image that CV2_ENC.n writes: header, then body (R220, R222). -/
def encodeImage (d : Depth) (s : State) : List Byte :=
  cv2Header d s.latch.width s.latch.height ++
    encodeBody d s s.srcWindow.base s.latch.width.toNat s.latch.height.toNat

def encodeEffect (d : Depth) (s : State) : State :=
  { s with
    mem := s.mem.writeBytes s.dstWindow.base (encodeImage d s)
    outLen := BitVec.ofNat 32 (cv2Size d s.latch.width.toNat s.latch.height.toNat)
    stride := s.latch.width, depth := depthByte d, dstOcc := true }

/-- CV2_ENC.8 (R223): PACK_8 is the index of FindIndex; it needs a palette. -/
def execCv2Enc8 (s : State) : Host.Outcome State Fault Refusal :=
  runCommand (commonChecks .cv2Enc8 s ++ encodeChecks .d8 s) (encodeEffect .d8) s

/-- CV2_ENC.16 (R224): PACK_16 is ToPacked16, little-endian. -/
def execCv2Enc16 (s : State) : Host.Outcome State Fault Refusal :=
  runCommand (commonChecks .cv2Enc16 s ++ encodeChecks .d16 s) (encodeEffect .d16) s

/-- CV2_ENC.24 (R225): PACK_24 is the four bytes B, G, R, A. -/
def execCv2Enc24 (s : State) : Host.Outcome State Fault Refusal :=
  runCommand (commonChecks .cv2Enc24 s ++ encodeChecks .d24 s) (encodeEffect .d24) s

/-- CV2_ENC.32 (R226): PACK_32 is the four bytes B, G, R, A. -/
def execCv2Enc32 (s : State) : Host.Outcome State Fault Refusal :=
  runCommand (commonChecks .cv2Enc32 s ++ encodeChecks .d32 s) (encodeEffect .d32) s

end Sys2Proof.Machine
end

