-- ==== Sys2Proof/Machine/Palette.lean ====
section
/-! DEFINITION. The palette commands PAL_LOAD, PAL_SAVE, PAL_SET, PAL_SWATCH and PAL_INVAL (40_palette.md). Each command has its
own checks, which follow the common ones in the order of 60_exceptions.md R304, and its effect on success. -/

namespace Sys2Proof.Machine

/-! ### PAL_LOAD -/

/-- The transparent-index fold (R160): each word, in increasing index order, whose bit 15 is 0 sets `(i, 1)`. -/
def transparentFold : List Half → Nat → Byte × Bool → Byte × Bool
  | [], _, acc => acc
  | w :: ws, i, acc => transparentFold ws (i + 1) (if w.getLsbD 15 then acc else (BitVec.ofNat 8 i, true))

/-- The 256 packed words of the PAL image at `src`, in index order (R158). -/
def palWords (m : Memory) (src : Nat) : List Half := (List.range 256).map (m.palWord src)

def palLoadChecks (s : State) : List Check := [(decide (s.latch.srcLen.toNat < 513), .format)]

def palLoadEffect (s : State) : State :=
  let src := s.srcWindow.base
  let t := transparentFold (palWords s.mem src) 0 (0#8, false)
  { s with
    pal := palOf fun i => fromPacked16 (s.mem.palWord src i), tidx := t.1, tvalid := t.2, palValid := true }

/-- PAL_LOAD (R155-R161): byte 0, the marker, is not read (R156). -/
def execPalLoad (s : State) : Host.Outcome State Fault Refusal :=
  runCommand (commonChecks .palLoad s ++ palLoadChecks s) palLoadEffect s

/-! ### PAL_SAVE -/

/-- The PAL image of a palette (R90, R163): the marker 0x10, then each entry packed, low byte first. -/
def palImage (pal : Vector Color 256) : List Byte := 0x10 :: pal.toList.flatMap fun c => bytesLE16 (toPacked16 c)

def palSaveChecks (s : State) : List Check :=
  [(!s.palValid, .missingPalette), (decide (s.latch.dstCap.toNat < 513), .capacity)]

def palSaveEffect (s : State) : State :=
  { s with mem := s.mem.writeBytes s.dstWindow.base (palImage s.pal), outLen := 513, dstOcc := true }

/-- PAL_SAVE (R163, R164). -/
def execPalSave (s : State) : Host.Outcome State Fault Refusal :=
  runCommand (commonChecks .palSave s ++ palSaveChecks s) palSaveEffect s

/-! ### PAL_SET -/

def palSetChecks (s : State) : List Check := [(decide (s.latch.srcLen.toNat < 1024), .format)]

def palSetEffect (t : Byte) (s : State) : State :=
  { s with
    pal := palOf fun i => s.mem.color (s.srcWindow.base + 4 * i), tidx := t, tvalid := true, palValid := true }

/-- PAL_SET t (R166, R167): the palette image of R97, channels exactly as given, and the immediate as TIDX. -/
def execPalSet (t : Byte) (s : State) : Host.Outcome State Fault Refusal :=
  runCommand (commonChecks (.palSet t) s ++ palSetChecks s) (palSetEffect t) s

/-! ### PAL_SWATCH -/

/-- The swatch is 16×16 or 32×32, WIDTH and HEIGHT read as unsigned (R170). -/
def swatchSizeLegal (w h : Word) : Bool := (w == 16 && h == 16) || (w == 32 && h == 32)

def palSwatchChecks (s : State) : List Check :=
  [ (!swatchSizeLegal s.latch.width s.latch.height, .invalidSize),
    (decide (s.latch.srcLen.toNat < s.latch.width.toNat * s.latch.height.toNat * 4), .format) ]

/-- Where the swatch pixel of palette index `k` starts, from the window's base, in a raster of width `w`: index
`k = row·16 + col` samples pixel `(col·scale, row·scale)` with `scale = w / 16` (R171). -/
def swatchOffset (w k : Nat) : Nat := pixelOffset w (k % 16 * (w / 16)) (k / 16 * (w / 16))

/-- The fully transparent Color that entry 0 becomes (R172). -/
def swatchEntry0 (rgb : BitVec 24) : Color := ⟨rgb.extractLsb' 0 8, rgb.extractLsb' 8 8, rgb.extractLsb' 16 8, 0⟩

def palSwatchEffect (s : State) : State :=
  { s with
    pal := palOf fun k =>
      if k = 0 then swatchEntry0 s.cfg.swatchIndex0Rgb
      else s.mem.color (s.srcWindow.base + swatchOffset s.latch.width.toNat k)
    tidx := 0, tvalid := true, palValid := true }

/-- PAL_SWATCH (R170-R173). -/
def execPalSwatch (s : State) : Host.Outcome State Fault Refusal :=
  runCommand (commonChecks .palSwatch s ++ palSwatchChecks s) palSwatchEffect s

/-! ### PAL_INVAL -/

def palInvalEffect (s : State) : State :=
  { s.forgetPalette with palValid := false, tvalid := false, tidx := 0 }

/-- PAL_INVAL (R176): the store's contents become unspecified (assumption 5). -/
def execPalInval (s : State) : Host.Outcome State Fault Refusal :=
  runCommand (commonChecks .palInval s) palInvalEffect s

end Sys2Proof.Machine
end

