-- ==== Sys2Proof/Machine/Quantizer.lean ====
section
/-! DEFINITION. LOOKUP, the palette index lookup (41_quantizer.md). -/

namespace Sys2Proof.Machine

def lookupChecks (s : State) : List Check := [(!s.palValid, .missingPalette)]

def lookupEffect (s : State) : State :=
  let f := findIndex s.pal s.tidx (colorOfWord s.latch.color)
  { s with resultIndex := f.1, resultHit := f.2 }

/-- LOOKUP (R201): FindIndex of the latched COLOR. -/
def execLookup (s : State) : Host.Outcome State Fault Refusal :=
  runCommand (commonChecks .lookup s ++ lookupChecks s) lookupEffect s

end Sys2Proof.Machine
end

