-- ==== Sys2Proof/Machine/Dispatch.lean ====
section
/-! DEFINITION. One arm per command: what the engine does when it completes that command (30_encoding.md R122). -/

namespace Sys2Proof.Machine

def exec (i : Instr) (s : State) : Host.Outcome State Fault Refusal :=
  match i with
  | .palLoad => Sys2Proof.Machine.execPalLoad s
  | .palSave => Sys2Proof.Machine.execPalSave s
  | .palSet t => Sys2Proof.Machine.execPalSet t s
  | .palSwatch => Sys2Proof.Machine.execPalSwatch s
  | .palInval => Sys2Proof.Machine.execPalInval s
  | .lookup => Sys2Proof.Machine.execLookup s
  | .cv2Enc8 => Sys2Proof.Machine.execCv2Enc8 s
  | .cv2Enc16 => Sys2Proof.Machine.execCv2Enc16 s
  | .cv2Enc24 => Sys2Proof.Machine.execCv2Enc24 s
  | .cv2Enc32 => Sys2Proof.Machine.execCv2Enc32 s
  | .cv2Dec => Sys2Proof.Machine.execCv2Dec s

end Sys2Proof.Machine
end

