-- ==== Sys2Proof/Machine/Engine.lean ====
section
/-! DEFINITION. The engine's turn: the latched command word is decoded and run as one atomic step (30_encoding.md R121,
20_memory.md R101, 70_reset_and_hazards.md R349). -/

namespace Sys2Proof.Machine

/-- The engine moves next: it is BUSY, and its latency is used up or the host has nothing left to do (R349, weak
fairness; assumption 8). -/
def State.engineTurn (s : State) : Bool := s.isBusy && (s.wait == 0 || s.script.isEmpty)

/-- The running command completes: an illegal word with ILLEGAL_CMD (R304 step 1, R308), a legal one as `exec` says. -/
def engineStep (s : State) : Host.Outcome State Fault Refusal :=
  match decode s.latch.cmd with
  | .ok i => exec i s
  | .error _ => .next (s.finish .illegalCmd)

end Sys2Proof.Machine
end

