-- ==== Sys2Proof/Machine/HostPort.lean ====
section
/-! DEFINITION. The host's turn: its register accesses (10_state.md R45-R48, R50), its buffer-memory accesses (20_memory.md
R100), WAIT and the reset input, and the pseudo-statements of the host script (30_encoding.md R128, R129). -/

namespace Sys2Proof.Machine

/-! ### The register map -/

/-- The register at a byte offset, if one is mapped there (R32). -/
def regAt (off : BitVec 11) : Option Reg :=
  if 0x400 ≤ off.toNat then some (.pal (off.extractLsb' 2 8))
  else
    match off.toNat with
    | 0x000 => some .ctrl
    | 0x004 => some .status
    | 0x008 => some .cmd
    | 0x00C => some .srcAddr
    | 0x010 => some .srcLen
    | 0x014 => some .dstAddr
    | 0x018 => some .dstCap
    | 0x01C => some .width
    | 0x020 => some .height
    | 0x024 => some .stride
    | 0x028 => some .depth
    | 0x02C => some .color
    | 0x030 => some .result
    | 0x034 => some .tidx
    | 0x038 => some .outLen
    | _ => none

/-- The byte offset of a register (R32). -/
def regOffset : Reg → BitVec 11
  | .ctrl => 0x000
  | .status => 0x004
  | .cmd => 0x008
  | .srcAddr => 0x00C
  | .srcLen => 0x010
  | .dstAddr => 0x014
  | .dstCap => 0x018
  | .width => 0x01C
  | .height => 0x020
  | .stride => 0x024
  | .depth => 0x028
  | .color => 0x02C
  | .result => 0x030
  | .tidx => 0x034
  | .outLen => 0x038
  | .pal i => 1#1 ++ i ++ 0#2

/-- The current value of a register (R33-R44, R50). The PAL window reads 0 while PAL_VALID = 0. -/
def State.readReg (s : State) : Reg → Word
  | .ctrl => s.ctrlWord
  | .status => s.statusWord
  | .cmd => s.cmd
  | .srcAddr => s.srcAddr
  | .srcLen => s.srcLen
  | .dstAddr => s.dstAddr
  | .dstCap => s.dstCap
  | .width => s.width
  | .height => s.height
  | .stride => s.stride
  | .depth => s.depth.zeroExtend 32
  | .color => s.color
  | .result => s.resultWord
  | .tidx => s.tidx.zeroExtend 32
  | .outLen => s.outLen
  | .pal i => if s.palValid then (s.pal.get i.toFin).word else 0

/-- `REG_READ(off)`: unmapped offsets read 0 (R46, R48). -/
def State.readOffset (s : State) (off : BitVec 11) : Word :=
  match regAt off with
  | some r => s.readReg r
  | none => 0

/-- A host write to a register while IDLE (R45): CTRL keeps bit 0, STATUS is write-1-to-clear in bits 1 and 2, CMD issues
a command, the operand registers take the word, the others ignore it. -/
def State.writeReg (s : State) (r : Reg) (v : Word) : State :=
  match r with
  | .ctrl => { s with ie := v.getLsbD 0 }
  | .status => { s with done := s.done && !v.getLsbD 1, dstOcc := s.dstOcc && !v.getLsbD 2 }
  | .cmd => s.issue v
  | .srcAddr => { s with srcAddr := v }
  | .srcLen => { s with srcLen := v }
  | .dstAddr => { s with dstAddr := v }
  | .dstCap => { s with dstCap := v }
  | .width => { s with width := v }
  | .height => { s with height := v }
  | .color => { s with color := v }
  | .stride => s
  | .depth => s
  | .result => s
  | .tidx => s
  | .outLen => s
  | .pal _ => s

/-- `REG_WRITE(off, v)` (R45): ignored entirely while BUSY, and at an unmapped offset. -/
def State.writeOffset (s : State) (off : BitVec 11) (v : Word) : State :=
  if s.isBusy then s
  else
    match regAt off with
    | some r => s.writeReg r v
    | none => s

/-! ### The host's accesses -/

/-- A register write by the host; an access of another form is refused before anything else (R47; assumption 14). -/
def hostRegWrite (s : State) (width : Nat) (off : BitVec 11) (v : Word) : Host.Outcome State Fault Refusal :=
  if accessWellFormed width off then .next (s.writeOffset off v) else .refused .busError

/-- A register read by the host (R46, R47). -/
def hostRegRead (s : State) (width : Nat) (off : BitVec 11) : Host.Outcome State Fault Refusal :=
  if accessWellFormed width off then .next { s with reads := .word (s.readOffset off) :: s.reads }
  else .refused .busError

/-- An access of the host to the bytes of window `w`, answering `t` where it is allowed: the bytes must exist (R80;
assumption 13) and must not lie in a window of the running command (R100). An access of no byte is always allowed. -/
def hostMemAccess (s : State) (w : Window) (t : State) : Host.Outcome State Fault Refusal :=
  if 0 < w.len && w.outside s.cfg.memSize then .fault .bufferOutside
  else if s.runningWindows.any w.overlaps then .fault .bufferHazard
  else .next t

/-- `MEMW` (R100, R128). -/
def hostMemWrite (s : State) (addr : Word) (bs : List Byte) : Host.Outcome State Fault Refusal :=
  hostMemAccess s ⟨addr.toNat, bs.length⟩ { s with mem := s.mem.writeBytes addr.toNat bs }

/-- `MEMR` (R100, R128). -/
def hostMemRead (s : State) (addr : Word) (n : Nat) : Host.Outcome State Fault Refusal :=
  hostMemAccess s ⟨addr.toNat, n⟩ { s with reads := .bytes (s.mem.readBytes addr.toNat n) :: s.reads }

/-- `WAIT` (R129): goes on once STATUS reads BUSY = 0, else it is the next statement again. The values it polls are not
kept (assumption 15). -/
def hostWait (s : State) : State := if s.isBusy then { s with script := .waitIdle :: s.script } else s

/-- One statement of the host, in a state from whose script it has been taken (R128). -/
def hostPerform (s : State) : HostOp → Host.Outcome State Fault Refusal
  | .regWrite width off v => hostRegWrite s width off v
  | .regRead width off => hostRegRead s width off
  | .memWrite addr bs => hostMemWrite s addr bs
  | .memRead addr n => hostMemRead s addr n
  | .waitIdle => .next (hostWait s)
  | .rst => .next s.pulseReset

/-- One turn of the host: its next statement, one host turn of a running command's latency used up (R349). A host that has
run its last statement leaves everything as it is (R350; assumption 16). -/
def hostStep (s : State) : Host.Outcome State Fault Refusal :=
  match s.script with
  | [] => .next s
  | op :: rest => hostPerform { s with script := rest, wait := s.wait - 1 } op

/-! ### The host script -/

/-- `W <REG>, v` (R128). -/
def scriptWrite (r : Reg) (v : Word) : HostOp := .regWrite 32 (regOffset r) v

/-- `R <REG>` (R128). -/
def scriptRead (r : Reg) : HostOp := .regRead 32 (regOffset r)

/-- A mnemonic: `W CMD`, the command's word (R128). -/
def scriptCommand (i : Instr) : HostOp := scriptWrite .cmd (encode i)

/-- `ACK`: clear DONE (R129). -/
def scriptAck : HostOp := scriptWrite .status 0x2

/-- `RELEASE`: clear DST_OCC (R129). -/
def scriptRelease : HostOp := scriptWrite .status 0x4

/-- `SETSRC a, n` (R129). -/
def scriptSetSrc (a n : Word) : List HostOp := [scriptWrite .srcAddr a, scriptWrite .srcLen n]

/-- `SETDST a, n` (R129). -/
def scriptSetDst (a n : Word) : List HostOp := [scriptWrite .dstAddr a, scriptWrite .dstCap n]

/-- `RUN <cmd>`: the command, then WAIT (R129). -/
def scriptRun (i : Instr) : List HostOp := [scriptCommand i, .waitIdle]

end Sys2Proof.Machine
end

