-- ==== Sys2Proof/Machine/Step.lean ====
section
/-! DEFINITION. One step of the machine: the engine's turn or the host's (00_scope.md R10). -/

namespace Sys2Proof.Machine

/-- One step: the engine completes the running command where it is its turn, else the host runs its next statement. -/
def step (s : State) : Host.Outcome State Fault Refusal :=
  if s.engineTurn then engineStep s else hostStep s

/-- `s` in which the word `w` has been accepted as a command and the engine moves next, so that the very next step runs
it. It stands for the host's write of `w` to CMD (R121; assumption 11): a command word is a register value and never
comes from buffer memory (R103). -/
def State.withFetchWord (s : State) (nbits w : Nat) : State :=
  { s.accept (BitVec.ofNat 32 (w % 2 ^ nbits)) with wait := 0 }

end Sys2Proof.Machine
end

