-- ==== Sys2Proof/Safety.lean ====
section
/-! DEFINITION. The terms claims are stated in: the invariant, when a command's windows are legal, how a command ends, what
it leaves unchanged, and the end of a run. -/

namespace Sys2Proof.Machine

/-! ### The invariant -/

/-- What every step keeps: memory canonical and inside MEM_SIZE (R80); BUSY and DONE never together and ERR 0 while BUSY
(R35, R37); no latency left while IDLE; the latched operands are the registers while BUSY (R45, R51(b)); TVALID only with a
palette and TIDX 0 without TVALID (R38, R176); DEPTH 0 or a bit depth (R42); OUT_LEN at most MEM_SIZE (R44, R98). -/
def State.Inv (s : State) : Prop :=
  s.mem.wf = true ∧ s.mem.within s.cfg.memSize = true ∧
  (s.engine = .busy → s.done = false ∧ s.err = .none ∧ s.latch = s.operands s.cmd) ∧
  (s.engine = .idle → s.wait = 0) ∧
  (s.palValid = false → s.tvalid = false) ∧ (s.tvalid = false → s.tidx = 0) ∧
  (s.depth = 0 ∨ s.depth = 8 ∨ s.depth = 16 ∨ s.depth = 24 ∨ s.depth = 32) ∧
  s.outLen.toNat ≤ s.cfg.memSize

/-! ### Windows of a command (R99) -/

/-- The latched source window lies inside buffer memory. -/
def SrcInside (s : State) : Prop := s.latch.srcAddr.toNat + s.latch.srcLen.toNat ≤ s.cfg.memSize

/-- The latched destination window lies inside buffer memory. -/
def DstInside (s : State) : Prop := s.latch.dstAddr.toNat + s.latch.dstCap.toNat ≤ s.cfg.memSize

/-- The latched windows overlap, as R99 writes it. -/
def WindowsOverlap (s : State) : Prop :=
  s.latch.srcLen.toNat > 0 ∧ s.latch.dstCap.toNat > 0 ∧
  s.latch.srcAddr.toNat < s.latch.dstAddr.toNat + s.latch.dstCap.toNat ∧
  s.latch.dstAddr.toNat < s.latch.srcAddr.toNat + s.latch.srcLen.toNat

/-- Step 3 of R304 raises RANGE for a command (R99). -/
def RangeFails (i : Instr) (s : State) : Prop :=
  (usesSrc i = true ∧ ¬ SrcInside s) ∨ (usesDst i = true ∧ ¬ DstInside s) ∨
  (usesSrc i = true ∧ usesDst i = true ∧ WindowsOverlap s)

/-! ### How a command ends -/

/-- The command ends with an error: ERR, DONE and BUSY change and nothing else does (R302). -/
def FailsWith (i : Instr) (s : State) (e : ErrCode) : Prop :=
  exec i s = .next { s with err := e, done := true, engine := .idle, wait := 0 }

/-- What no command writes: the parameters, CTRL, CMD, the window registers, COLOR, the latched operands, and the host's
side of the state (R53, R98). -/
def KeptByCommands (s t : State) : Prop :=
  t.cfg = s.cfg ∧ t.ie = s.ie ∧ t.cmd = s.cmd ∧ t.srcAddr = s.srcAddr ∧ t.srcLen = s.srcLen ∧
  t.dstAddr = s.dstAddr ∧ t.dstCap = s.dstCap ∧ t.color = s.color ∧ t.latch = s.latch ∧
  t.latencies = s.latencies ∧ t.script = s.script ∧ t.reads = s.reads

/-- The command ended without error (R303), and what no command writes is kept. -/
def Completes (s t : State) : Prop :=
  t.err = .none ∧ t.done = true ∧ t.engine = .idle ∧ t.wait = 0 ∧ KeptByCommands s t

/-- The palette store, TIDX, TVALID and PAL_VALID are unchanged. -/
def SamePalette (s t : State) : Prop :=
  t.pal = s.pal ∧ t.tidx = s.tidx ∧ t.tvalid = s.tvalid ∧ t.palValid = s.palValid

/-- RESULT is unchanged. -/
def SameResult (s t : State) : Prop := t.resultIndex = s.resultIndex ∧ t.resultHit = s.resultHit

/-- WIDTH, HEIGHT, STRIDE, DEPTH and OUT_LEN are unchanged. -/
def SameImageRegs (s t : State) : Prop :=
  t.width = s.width ∧ t.height = s.height ∧ t.stride = s.stride ∧ t.depth = s.depth ∧ t.outLen = s.outLen

/-- Every byte of buffer memory reads as before. -/
def SameMemory (s t : State) : Prop := ∀ a, t.mem.read a = s.mem.read a

/-- Every byte of buffer memory outside `[base, base + len)` reads as before. -/
def SameMemoryOutside (s t : State) (base len : Nat) : Prop :=
  ∀ a, (a < base ∨ base + len ≤ a) → t.mem.read a = s.mem.read a

/-- What a command that only writes RESULT or the palette leaves unchanged: buffer memory, DST_OCC and the image registers. -/
def NoOutput (s t : State) : Prop := SameMemory s t ∧ t.dstOcc = s.dstOcc ∧ SameImageRegs s t

/-! ### When CV2_ENC.n and CV2_DEC run to the end -/

/-- The depth of a CV2_ENC command (R123). -/
def encodeDepth : Instr → Option Depth
  | .cv2Enc8 => some .d8
  | .cv2Enc16 => some .d16
  | .cv2Enc24 => some .d24
  | .cv2Enc32 => some .d32
  | .palLoad | .palSave | .palSet _ | .palSwatch | .palInval | .lookup | .cv2Dec => none

/-- No check of R227 applies to a CV2_ENC of depth `d`. -/
def EncodeReady (d : Depth) (s : State) : Prop :=
  s.dstOcc = false ∧ SrcInside s ∧ DstInside s ∧ ¬ WindowsOverlap s ∧ (d = .d8 → s.palValid = true) ∧
  1 ≤ s32 s.latch.width ∧ 1 ≤ s32 s.latch.height ∧
  s.latch.width.toNat * s.latch.height.toNat * 4 ≤ s.latch.srcLen.toNat ∧
  17 + s.latch.width.toNat * s.latch.height.toNat * psize d ≤ s.latch.dstCap.toNat

/-- No check of R265 applies to a CV2_DEC whose header names depth `d`. -/
def DecodeReady (d : Depth) (s : State) : Prop :=
  s.dstOcc = false ∧ SrcInside s ∧ DstInside s ∧ ¬ WindowsOverlap s ∧ 17 ≤ s.latch.srcLen.toNat ∧
  s.mem.read s.latch.srcAddr.toNat = depthByte d ∧ (d = .d8 → s.palValid = true) ∧
  1 ≤ s32 (headerWidth s) ∧ 1 ≤ s32 (headerHeight s) ∧ s32 (headerWidth s) ≤ s32 (headerStride s) ∧
  (headerHeight s).toNat * (headerStride s).toNat * psize d ≤ s.latch.srcLen.toNat - 17 ∧
  (headerWidth s).toNat * (headerHeight s).toNat * 4 ≤ s.latch.dstCap.toNat

/-- What CV2_ENC.n of depth `d` leaves beside the packed pixels: the header of R222, the registers of R220, and everything
else as before. -/
def EncodeResult (d : Depth) (s t : State) : Prop :=
  Completes s t ∧ SamePalette s t ∧ SameResult s t ∧ t.free = s.free ∧ t.width = s.width ∧ t.height = s.height ∧
  t.stride = s.latch.width ∧ t.depth = depthByte d ∧ t.dstOcc = true ∧
  t.outLen.toNat = 17 + s.latch.width.toNat * s.latch.height.toNat * psize d ∧
  t.mem.readBytes s.latch.dstAddr.toNat 17 =
    [depthByte d] ++ bytesLE32 s.latch.width ++ bytesLE32 s.latch.height ++ bytesLE32 s.latch.width ++ bytesLE32 0 ∧
  SameMemoryOutside s t s.latch.dstAddr.toNat (17 + s.latch.width.toNat * s.latch.height.toNat * psize d)

/-- The common checks (R304 steps 2 and 3) find no error. -/
def CommonPass (i : Instr) (s : State) : Prop := (usesDst i = false ∨ s.dstOcc = false) ∧ ¬ RangeFails i s

/-! ### Runs -/

/-- The host has run its last statement and the engine is IDLE (R350). -/
def State.ended (s : State) : Prop := s.script = [] ∧ s.engine = .idle

/-- The step is safe: it neither faults nor is refused. -/
def StepSafe (s : State) : Prop := ∃ t, step s = .next t

/-- Every step of a run of `n` steps is safe. -/
def RunSafe : Nat → State → Prop
  | 0, _ => True
  | n + 1, s => ∃ t, step s = .next t ∧ RunSafe n t

end Sys2Proof.Machine
end

