-- ==== Sys2Proof/Certificates/Slice0/Obligations.lean ====
section
/-! DEFINITION. The statements for the provers. Each docstring names the rules of spec/ it rests on. -/

open Sys2Proof Sys2Proof.Machine

/-! ### Encoding -/

/-- R122: decoding the encoded word of a well-formed command gives the command back, and the word a command is decoded from
is its encoding, so every legal command has exactly one word. -/
def Obligations.EveryCommandHasExactlyOneWord : Prop :=
  (∀ i : Instr, i.wellFormed = true → decode (encode i) = .ok i) ∧
  (∀ (v : Word) (i : Instr), decode v = .ok i → i.wellFormed = true ∧ encode i = v)

/-- R125: a word is rejected exactly when its OP is 0 or 9-15 or a bit that must be 0 for its OP is 1, and the running of
a rejected word ends with ILLEGAL_CMD and changes nothing but STATUS. -/
def Obligations.IllegalWordsAreThoseOfTheMustBeZeroRules : Prop :=
  (∀ v : Word, (∃ r, decode v = .error r) ↔
    (v.extractLsb' 0 4 = 0#4 ∨ 9#4 ≤ v.extractLsb' 0 4) ∨ v.extractLsb' 16 16 ≠ 0#16 ∨ v.extractLsb' 6 2 ≠ 0#2 ∨
    (v.extractLsb' 0 4 ≠ 3#4 ∧ v.extractLsb' 8 8 ≠ 0#8) ∨ (v.extractLsb' 0 4 ≠ 7#4 ∧ v.extractLsb' 4 2 ≠ 0#2)) ∧
  (∀ (s : State) (r : Reject), s.engineTurn = true → decode s.latch.cmd = .error r →
    step s = .next { s with err := .illegalCmd, done := true, engine := .idle, wait := 0 })

/-- R126: a legal word matches exactly one row of the mask and match table and an illegal word none; every mask is
0xFFFF_FFFF but PAL_SET's, which is 0xFFFF_00FF. -/
def Obligations.LegalWordMatchesExactlyOneRow : Prop :=
  (∀ v : Word, (opcodeRows.filter fun r => r.hits v).length = if wordLegal v then 1 else 0) ∧
  (∀ r ∈ opcodeRows, r.mask = if r.mnemonic = "PAL_SET" then 0xFFFF00FF else 0xFFFFFFFF)

/-- R122 and 95_test_vectors.md 2.10: the exact words of the opcode map decode to their commands, and the listed illegal
words are rejected. -/
def Obligations.ListedWordsDecodeAsListed : Prop :=
  decode 0x00000001 = .ok .palLoad ∧ decode 0x00000002 = .ok .palSave ∧ decode 0x00002A03 = .ok (.palSet 0x2A) ∧
  decode 0x00000004 = .ok .palSwatch ∧ decode 0x00000005 = .ok .palInval ∧ decode 0x00000006 = .ok .lookup ∧
  decode 0x00000007 = .ok .cv2Enc8 ∧ decode 0x00000017 = .ok .cv2Enc16 ∧ decode 0x00000027 = .ok .cv2Enc24 ∧
  decode 0x00000037 = .ok .cv2Enc32 ∧ decode 0x00000008 = .ok .cv2Dec ∧
  decode 0x00000000 = .error .reservedOp ∧ decode 0x00000009 = .error .reservedOp ∧
  decode 0x00000101 = .error .immediate ∧ decode 0x00000015 = .error .depthSelect ∧
  decode 0x80000006 = .error .reservedBits

/-! ### The engine's turn -/

/-- R121: when it is the engine's turn and the latched word decodes to a command, the step is that command's execution; and
the word placed by `withFetchWord` is what the next step runs. -/
def Obligations.StepRunsTheLatchedCommand : Prop :=
  (∀ (s : State) (i : Instr), s.engine = .busy → (s.wait = 0 ∨ s.script = []) → decode s.latch.cmd = .ok i →
    step s = exec i s) ∧
  (∀ (s : State) (w : Nat) (i : Instr), w < 2 ^ 32 → decode (BitVec.ofNat 32 w) = .ok i →
    step (s.withFetchWord 32 w) = exec i (s.withFetchWord 32 w))

/-- R121, R51(b): a host write of a legal word to CMD while IDLE stores it, clears ERR and DONE, sets BUSY and latches the
operands, and nothing else changes but the host's script and the schedule (assumption 8); while BUSY it is ignored. -/
def Obligations.CmdWriteIssuesTheCommand : Prop :=
  ∀ (s : State) (v : Word) (rest : List HostOp), s.script = .regWrite 32 0x008 v :: rest →
    (∀ i, s.engine = .idle → decode v = .ok i →
      step s = .next { s with
        script := rest, cmd := v, err := .none, done := false, engine := .busy
        latch := ⟨v, s.srcAddr, s.srcLen, s.dstAddr, s.dstCap, s.width, s.height, s.color⟩
        wait := s.latencies.headD 0, latencies := s.latencies.tail }) ∧
    (s.engine = .busy → 0 < s.wait → step s = .next { s with script := rest, wait := s.wait - 1 })

/-- R308: an illegal word written to CMD while IDLE completes at once, in the very next step, with ILLEGAL_CMD; CMD keeps the
word, and nothing else but STATUS and the hidden latch has changed. -/
def Obligations.IllegalWordCompletesAtOnce : Prop :=
  ∀ (s : State) (v : Word) (rest : List HostOp), s.engine = .idle → s.script = .regWrite 32 0x008 v :: rest →
    wordLegal v = false →
    ∃ u t, step s = .next u ∧ step u = .next t ∧ t.readOffset 0x008 = v ∧
      t = { s with
        script := rest, cmd := v, latch := s.operands v, err := .illegalCmd, done := true, engine := .idle, wait := 0 }

/-- R349, R129: whatever latency a running command has left, a host that waits sees it complete: after `wait + 1` steps the
engine has run the command and is IDLE, and one step later the host is past its WAIT. The count is the model's: the latency
is a number of host turns (assumption 8), and each poll of WAIT uses one (assumption 15). -/
def Obligations.WaitingHostSeesCompletion : Prop :=
  ∀ (s : State) (rest : List HostOp), s.engine = .busy → s.script = .waitIdle :: rest →
    ∃ t, engineStep { s with wait := 0 } = .next t ∧ t.engine = .idle ∧
      Host.Core.run Sys2Proof.core (s.wait + 1) s = .next t ∧
      Host.Core.run Sys2Proof.core (s.wait + 2) s = .next { t with script := rest }

/-- R31: the engine leaves IDLE only by a host write of 32 bits to CMD, and leaves BUSY only by completing its command or by
a reset. -/
def Obligations.EngineMovesOnlyByCmdWriteCompletionOrReset : Prop :=
  ∀ s t : State, step s = .next t →
    (s.engine = .idle → t.engine = .busy → ∃ v rest, s.script = .regWrite 32 0x008 v :: rest ∧ t.cmd = v) ∧
    (s.engine = .busy → t.engine = .idle → (s.engineTurn = true ∧ t.done = true) ∨ ∃ rest, s.script = .rst :: rest)

/-! ### Conversion functions -/

/-- R150, R151: the packed-16 conversions in arithmetic. -/
def Obligations.PackedColourArithmetic : Prop :=
  (∀ w : Half,
    (fromPacked16 w).r.toNat = w.toNat / 1024 % 32 * 8 ∧ (fromPacked16 w).g.toNat = w.toNat / 32 % 32 * 8 ∧
    (fromPacked16 w).b.toNat = w.toNat % 32 * 8 ∧
    (fromPacked16 w).a.toNat = if w.toNat / 32768 = 1 then 255 else 0) ∧
  (∀ c : Color, (toPacked16 c).toNat =
    (if c.a = 0 then 0 else 1) * 32768 + c.r.toNat / 8 * 1024 + c.g.toNat / 8 * 32 + c.b.toNat / 8)

/-- R152: (a) unpacking then packing a word gives the word; (b) packing then unpacking a Color keeps the top 5 bits of
each channel and makes any non-zero alpha 255. -/
def Obligations.PackedColourRoundTrips : Prop :=
  (∀ w : Half, toPacked16 (fromPacked16 w) = w) ∧
  (∀ c : Color, fromPacked16 (toPacked16 c) =
    ⟨c.r &&& 0xF8, c.g &&& 0xF8, c.b &&& 0xF8, if c.a = 0 then 0 else 255⟩)

/-- R200, R202: FindIndex returns the lowest index whose entry equals the query in all four channels, with hit 1, and
otherwise TIDX with hit 0. -/
def Obligations.FindIndexReturnsLowestMatchOrTidx : Prop :=
  ∀ (pal : Vector Color 256) (tidx : Byte) (c : Color),
    (∀ i : Fin 256, pal.get i = c → (∀ j : Fin 256, j < i → pal.get j ≠ c) →
      (findIndex pal tidx c).1.toNat = i.val ∧ (findIndex pal tidx c).2 = true) ∧
    ((∀ i : Fin 256, pal.get i ≠ c) → findIndex pal tidx c = (tidx, false))

/-! ### The palette commands -/

/-- R155, R157-R160: PAL_LOAD's word, its errors in order, and on success every entry, the transparent-index fold and the
frame. -/
def Obligations.PalLoadOutcome : Prop :=
  encode .palLoad = 0x00000001 ∧ ∀ s : State,
    (¬ SrcInside s → FailsWith .palLoad s .range) ∧
    (SrcInside s → s.latch.srcLen.toNat < 513 → FailsWith .palLoad s .format) ∧
    (SrcInside s → 513 ≤ s.latch.srcLen.toNat →
      ∃ t, exec .palLoad s = .next t ∧ Completes s t ∧ NoOutput s t ∧ SameResult s t ∧ t.free = s.free ∧
        t.palValid = true ∧
        (∀ i : Fin 256, t.pal.get i = fromPacked16 (le16 (s.mem.read (s.latch.srcAddr.toNat + 1 + 2 * i.val))
          (s.mem.read (s.latch.srcAddr.toNat + 2 + 2 * i.val)))) ∧
        (∀ i : Fin 256, (s.mem.palWord s.latch.srcAddr.toNat i).getLsbD 15 = false →
          (∀ j : Fin 256, i < j → (s.mem.palWord s.latch.srcAddr.toNat j).getLsbD 15 = true) →
          t.tidx.toNat = i.val ∧ t.tvalid = true) ∧
        ((∀ i : Fin 256, (s.mem.palWord s.latch.srcAddr.toNat i).getLsbD 15 = true) →
          t.tidx = 0 ∧ t.tvalid = false))

/-- R156: the marker, byte 0 of the source window, has no effect on PAL_LOAD: with any other marker the command ends in
the same way, buffer memory apart. -/
def Obligations.PalLoadIgnoresTheMarker : Prop :=
  ∀ (s : State) (marker : Byte),
    ∃ t, exec .palLoad s = .next t ∧
      exec .palLoad { s with mem := s.mem.write s.latch.srcAddr.toNat marker } =
        .next { t with mem := s.mem.write s.latch.srcAddr.toNat marker }

/-- R163: PAL_SAVE's word, its errors in order, and on success the 513 bytes, OUT_LEN, DST_OCC and the frame. -/
def Obligations.PalSaveOutcome : Prop :=
  encode .palSave = 0x00000002 ∧ ∀ s : State,
    (s.dstOcc = true → FailsWith .palSave s .alreadyExists) ∧
    (s.dstOcc = false → ¬ DstInside s → FailsWith .palSave s .range) ∧
    (s.dstOcc = false → DstInside s → s.palValid = false → FailsWith .palSave s .missingPalette) ∧
    (s.dstOcc = false → DstInside s → s.palValid = true → s.latch.dstCap.toNat < 513 →
      FailsWith .palSave s .capacity) ∧
    (s.dstOcc = false → DstInside s → s.palValid = true → 513 ≤ s.latch.dstCap.toNat →
      ∃ t, exec .palSave s = .next t ∧ Completes s t ∧ SamePalette s t ∧ SameResult s t ∧ t.free = s.free ∧
        t.width = s.width ∧ t.height = s.height ∧ t.stride = s.stride ∧ t.depth = s.depth ∧
        t.outLen = 513 ∧ t.dstOcc = true ∧ t.mem.read s.latch.dstAddr.toNat = 0x10 ∧
        (∀ i : Fin 256,
          t.mem.read (s.latch.dstAddr.toNat + 1 + 2 * i.val) = (toPacked16 (s.pal.get i)).extractLsb' 0 8 ∧
          t.mem.read (s.latch.dstAddr.toNat + 2 + 2 * i.val) = (toPacked16 (s.pal.get i)).extractLsb' 8 8) ∧
        SameMemoryOutside s t s.latch.dstAddr.toNat 513)

/-- R166: PAL_SET's word, its errors in order, and on success every entry exactly as given, TIDX = t and the frame. -/
def Obligations.PalSetOutcome : Prop :=
  ∀ (s : State) (imm : Byte),
    encode (.palSet imm) = 0x00000003 ||| (imm.zeroExtend 32 <<< 8) ∧
    (¬ SrcInside s → FailsWith (.palSet imm) s .range) ∧
    (SrcInside s → s.latch.srcLen.toNat < 1024 → FailsWith (.palSet imm) s .format) ∧
    (SrcInside s → 1024 ≤ s.latch.srcLen.toNat →
      ∃ t, exec (.palSet imm) s = .next t ∧ Completes s t ∧ NoOutput s t ∧ SameResult s t ∧ t.free = s.free ∧
        t.palValid = true ∧ t.tvalid = true ∧ t.tidx = imm ∧
        (∀ i : Fin 256, t.pal.get i =
          ⟨s.mem.read (s.latch.srcAddr.toNat + 4 * i.val), s.mem.read (s.latch.srcAddr.toNat + 4 * i.val + 1),
           s.mem.read (s.latch.srcAddr.toNat + 4 * i.val + 2), s.mem.read (s.latch.srcAddr.toNat + 4 * i.val + 3)⟩))

/-- R170-R172: PAL_SWATCH's word, its errors in order, and on success the scaler's addressing, the transparent entry 0 and
the frame. -/
def Obligations.PalSwatchOutcome : Prop :=
  encode .palSwatch = 0x00000004 ∧ ∀ s : State,
    (¬ SrcInside s → FailsWith .palSwatch s .range) ∧
    (SrcInside s →
      ¬ ((s.latch.width = 16 ∧ s.latch.height = 16) ∨ (s.latch.width = 32 ∧ s.latch.height = 32)) →
      FailsWith .palSwatch s .invalidSize) ∧
    (∀ scale : Nat, scale = 1 ∨ scale = 2 → SrcInside s → s.latch.width.toNat = 16 * scale →
      s.latch.height.toNat = 16 * scale →
      (s.latch.srcLen.toNat < 16 * scale * (16 * scale) * 4 → FailsWith .palSwatch s .format) ∧
      (16 * scale * (16 * scale) * 4 ≤ s.latch.srcLen.toNat →
        ∃ t, exec .palSwatch s = .next t ∧ Completes s t ∧ NoOutput s t ∧ SameResult s t ∧ t.free = s.free ∧
          t.palValid = true ∧ t.tvalid = true ∧ t.tidx = 0 ∧
          t.pal.get 0 = ⟨s.cfg.swatchIndex0Rgb.extractLsb' 0 8, s.cfg.swatchIndex0Rgb.extractLsb' 8 8,
            s.cfg.swatchIndex0Rgb.extractLsb' 16 8, 0⟩ ∧
          (∀ (k : Fin 256) (row col : Nat), k ≠ 0 → col < 16 → k.val = row * 16 + col →
            t.pal.get k = s.mem.color (s.latch.srcAddr.toNat +
              ((row * scale) * (16 * scale) + col * scale) * 4))))

/-- R176: PAL_INVAL always completes; the palette is withdrawn and the PAL window reads 0; RESULT, DST_OCC, buffer memory
and the image registers are unchanged. What the store then holds is a free value, so nothing is said of it. -/
def Obligations.PalInvalOutcome : Prop :=
  encode .palInval = 0x00000005 ∧ ∀ s : State, ∃ t, exec .palInval s = .next t ∧ Completes s t ∧ NoOutput s t ∧ SameResult s t ∧
    t.palValid = false ∧ t.tvalid = false ∧ t.tidx = 0 ∧ (∀ i : Byte, t.readReg (.pal i) = 0)

/-- R201, R200: LOOKUP without a palette fails; with one it writes RESULT with the lowest matching index and HIT 1, or with
TIDX and HIT 0, and nothing else changes. -/
def Obligations.LookupOutcome : Prop :=
  encode .lookup = 0x00000006 ∧ ∀ s : State,
    (s.palValid = false → FailsWith .lookup s .missingPalette) ∧
    (s.palValid = true →
      ∃ t, exec .lookup s = .next t ∧ Completes s t ∧ NoOutput s t ∧ SamePalette s t ∧ t.free = s.free ∧
        (∀ i : Fin 256, s.pal.get i = ⟨s.latch.color.extractLsb' 0 8, s.latch.color.extractLsb' 8 8,
            s.latch.color.extractLsb' 16 8, s.latch.color.extractLsb' 24 8⟩ →
          (∀ j : Fin 256, j < i → s.pal.get j ≠ s.pal.get i) →
          t.readReg .result = BitVec.ofNat 32 (256 + i.val)) ∧
        ((∀ i : Fin 256, s.pal.get i ≠ ⟨s.latch.color.extractLsb' 0 8, s.latch.color.extractLsb' 8 8,
            s.latch.color.extractLsb' 16 8, s.latch.color.extractLsb' 24 8⟩) →
          t.readReg .result = s.tidx.zeroExtend 32))

/-- R164(c): PAL_LOAD of an image and then PAL_SAVE of the palette reproduces bytes 1 to 512 of the image, and writes 0x10
as byte 0. -/
def Obligations.SavedPaletteReproducesLoadedImage : Prop :=
  ∀ s u t : State, SrcInside s → 513 ≤ s.latch.srcLen.toNat → exec .palLoad s = .next t →
    u.pal = t.pal → u.palValid = t.palValid → u.dstOcc = false → DstInside u → 513 ≤ u.latch.dstCap.toNat →
    ∃ r, exec .palSave u = .next r ∧ r.err = .none ∧ r.mem.read u.latch.dstAddr.toNat = 0x10 ∧
      ∀ k, 1 ≤ k → k < 513 →
        r.mem.read (u.latch.dstAddr.toNat + k) = s.mem.read (s.latch.srcAddr.toNat + k)

/-! ### CV2_ENC.n -/

/-- R222: every CV2_ENC.n that no check stops completes, writes the header, the result registers and OUT_LEN, and leaves
everything else as it was. -/
def Obligations.EncodeWritesHeaderAndRegisters : Prop :=
  ∀ (i : Instr) (d : Depth) (s : State), encodeDepth i = some d → EncodeReady d s →
    ∃ t, exec i s = .next t ∧ EncodeResult d s t

/-- R223: CV2_ENC.8 needs a palette, checked before the dimensions; it writes one byte for each pixel, the lowest index
that holds the pixel's Color, or TIDX. -/
def Obligations.Encode8WritesPaletteIndices : Prop :=
  encode .cv2Enc8 = 0x00000007 ∧
  (∀ s : State, CommonPass .cv2Enc8 s → s.palValid = false → FailsWith .cv2Enc8 s .missingPalette) ∧
  (∀ s : State, EncodeReady .d8 s → ∃ t, exec .cv2Enc8 s = .next t ∧ EncodeResult .d8 s t ∧
    ∀ (x y : Nat) (p : Color), x < s.latch.width.toNat → y < s.latch.height.toNat →
      p = s.mem.color (s.latch.srcAddr.toNat + (y * s.latch.width.toNat + x) * 4) →
      (∀ k : Fin 256, s.pal.get k = p → (∀ j : Fin 256, j < k → s.pal.get j ≠ p) →
        (t.mem.read (s.latch.dstAddr.toNat + 17 + (y * s.latch.width.toNat + x))).toNat = k.val) ∧
      ((∀ k : Fin 256, s.pal.get k ≠ p) →
        t.mem.read (s.latch.dstAddr.toNat + 17 + (y * s.latch.width.toNat + x)) = s.tidx))

/-- R224: CV2_ENC.16 needs no palette and writes two bytes for each pixel, its packed colour with the low byte first. -/
def Obligations.Encode16WritesPackedColours : Prop :=
  encode .cv2Enc16 = 0x00000017 ∧ ∀ s : State, EncodeReady .d16 s → ∃ t, exec .cv2Enc16 s = .next t ∧ EncodeResult .d16 s t ∧
    ∀ (x y : Nat) (p : Color), x < s.latch.width.toNat → y < s.latch.height.toNat →
      p = s.mem.color (s.latch.srcAddr.toNat + (y * s.latch.width.toNat + x) * 4) →
      t.mem.readBytes (s.latch.dstAddr.toNat + 17 + (y * s.latch.width.toNat + x) * 2) 2 =
        [(toPacked16 p).extractLsb' 0 8, (toPacked16 p).extractLsb' 8 8]

/-- R225: CV2_ENC.24 needs no palette and writes four bytes for each pixel, B, G, R, A; its header byte is 0x18. -/
def Obligations.Encode24WritesFourBytesPerPixel : Prop :=
  encode .cv2Enc24 = 0x00000027 ∧ ∀ s : State, EncodeReady .d24 s → ∃ t, exec .cv2Enc24 s = .next t ∧ EncodeResult .d24 s t ∧
    t.mem.read s.latch.dstAddr.toNat = 0x18 ∧
    ∀ (x y : Nat) (p : Color), x < s.latch.width.toNat → y < s.latch.height.toNat →
      p = s.mem.color (s.latch.srcAddr.toNat + (y * s.latch.width.toNat + x) * 4) →
      t.mem.readBytes (s.latch.dstAddr.toNat + 17 + (y * s.latch.width.toNat + x) * 4) 4 = [p.b, p.g, p.r, p.a]

/-- R226: CV2_ENC.32 needs no palette and writes four bytes for each pixel, B, G, R, A. -/
def Obligations.Encode32WritesFourBytesPerPixel : Prop :=
  encode .cv2Enc32 = 0x00000037 ∧ ∀ s : State, EncodeReady .d32 s → ∃ t, exec .cv2Enc32 s = .next t ∧ EncodeResult .d32 s t ∧
    t.mem.read s.latch.dstAddr.toNat = 0x20 ∧
    ∀ (x y : Nat) (p : Color), x < s.latch.width.toNat → y < s.latch.height.toNat →
      p = s.mem.color (s.latch.srcAddr.toNat + (y * s.latch.width.toNat + x) * 4) →
      t.mem.readBytes (s.latch.dstAddr.toNat + 17 + (y * s.latch.width.toNat + x) * 4) 4 = [p.b, p.g, p.r, p.a]

/-- R227: the errors of CV2_ENC.n in the order they are checked, each leaving everything but STATUS as it was. -/
def Obligations.EncodeErrorsInOrder : Prop :=
  ∀ (i : Instr) (d : Depth) (s : State), encodeDepth i = some d →
    (s.dstOcc = true → FailsWith i s .alreadyExists) ∧
    (s.dstOcc = false → RangeFails i s → FailsWith i s .range) ∧
    (CommonPass i s → d = .d8 ∧ s.palValid = false → FailsWith i s .missingPalette) ∧
    (CommonPass i s → ¬ (d = .d8 ∧ s.palValid = false) → s32 s.latch.width < 1 ∨ s32 s.latch.height < 1 →
      FailsWith i s .format) ∧
    (CommonPass i s → ¬ (d = .d8 ∧ s.palValid = false) → 1 ≤ s32 s.latch.width → 1 ≤ s32 s.latch.height →
      ((s.latch.srcLen.toNat : Int) < s32 s.latch.width * s32 s.latch.height * 4 → FailsWith i s .format) ∧
      (s32 s.latch.width * s32 s.latch.height * 4 ≤ (s.latch.srcLen.toNat : Int) →
        ((s.latch.dstCap.toNat : Int) < 17 + s32 s.latch.width * s32 s.latch.height * (psize d : Int) →
          FailsWith i s .capacity) ∧
        (17 + s32 s.latch.width * s32 s.latch.height * (psize d : Int) ≤ (s.latch.dstCap.toNat : Int) →
          ∃ t, exec i s = .next t ∧ t.err = .none)))

/-! ### CV2_DEC -/

/-- R265, R251-R256: the errors of CV2_DEC in the order they are checked, each leaving everything but STATUS as it was. -/
def Obligations.DecodeErrorsInOrder : Prop :=
  ∀ s : State,
    (s.dstOcc = true → FailsWith .cv2Dec s .alreadyExists) ∧
    (s.dstOcc = false → RangeFails .cv2Dec s → FailsWith .cv2Dec s .range) ∧
    (CommonPass .cv2Dec s →
      (s.latch.srcLen.toNat < 17 → FailsWith .cv2Dec s .format) ∧
      (17 ≤ s.latch.srcLen.toNat →
        ((∀ d, s.mem.read s.latch.srcAddr.toNat ≠ depthByte d) → FailsWith .cv2Dec s .unsupportedFormat) ∧
        (∀ d, s.mem.read s.latch.srcAddr.toNat = depthByte d →
          (d = .d8 ∧ s.palValid = false → FailsWith .cv2Dec s .missingPalette) ∧
          (¬ (d = .d8 ∧ s.palValid = false) →
            (s32 (headerWidth s) < 1 ∨ s32 (headerHeight s) < 1 ∨ s32 (headerStride s) < s32 (headerWidth s) →
              FailsWith .cv2Dec s .format) ∧
            (1 ≤ s32 (headerWidth s) → 1 ≤ s32 (headerHeight s) → s32 (headerWidth s) ≤ s32 (headerStride s) →
              ((s.latch.srcLen.toNat : Int) - 17 < s32 (headerHeight s) * s32 (headerStride s) * (psize d : Int) →
                FailsWith .cv2Dec s .format) ∧
              (s32 (headerHeight s) * s32 (headerStride s) * (psize d : Int) ≤ (s.latch.srcLen.toNat : Int) - 17 →
                ((s.latch.dstCap.toNat : Int) < s32 (headerWidth s) * s32 (headerHeight s) * 4 →
                  FailsWith .cv2Dec s .capacity) ∧
                (s32 (headerWidth s) * s32 (headerHeight s) * 4 ≤ (s.latch.dstCap.toNat : Int) →
                  ∃ t, exec .cv2Dec s = .next t ∧ t.err = .none)))))))

/-- R257-R262: a CV2_DEC that no check stops completes. Pixel (x, y) of the raster, x < width, is the unpacked pixel at row
y, column x of the `stride` columns of the body; the registers and the frame are as R262 and R250 say. -/
def Obligations.DecodeOutcome : Prop :=
  ∀ (d : Depth) (s : State), DecodeReady d s →
    ∃ t, exec .cv2Dec s = .next t ∧ Completes s t ∧ SamePalette s t ∧ SameResult s t ∧ t.free = s.free ∧
      t.width = headerWidth s ∧ t.height = headerHeight s ∧ t.stride = headerStride s ∧ t.depth = depthByte d ∧
      t.dstOcc = true ∧ t.outLen.toNat = (headerWidth s).toNat * (headerHeight s).toNat * 4 ∧
      SameMemoryOutside s t s.latch.dstAddr.toNat ((headerWidth s).toNat * (headerHeight s).toNat * 4) ∧
      ∀ (x y p : Nat) (c : Color), x < (headerWidth s).toNat → y < (headerHeight s).toNat →
        p = s.latch.srcAddr.toNat + 17 + (y * (headerStride s).toNat + x) * psize d →
        c = t.mem.color (s.latch.dstAddr.toNat + (y * (headerWidth s).toNat + x) * 4) →
        (d = .d8 → c = s.pal.get (s.mem.read p).toFin) ∧
        (d = .d16 → c = fromPacked16 (le16 (s.mem.read p) (s.mem.read (p + 1)))) ∧
        (d = .d24 ∨ d = .d32 →
          c = ⟨s.mem.read (p + 2), s.mem.read (p + 1), s.mem.read p, s.mem.read (p + 3)⟩)

/-- R263, R261: the header's reserved field and the pixels of the columns from width to stride - 1 have no effect: in a
memory that differs only there, the same raster and the same registers result. -/
def Obligations.DecodeIgnoresReservedFieldAndPadding : Prop :=
  ∀ (d : Depth) (s : State) (m : Memory), DecodeReady d s →
    (∀ k, k < 13 → m.read (s.latch.srcAddr.toNat + k) = s.mem.read (s.latch.srcAddr.toNat + k)) →
    (∀ x y k, x < (headerWidth s).toNat → y < (headerHeight s).toNat → k < psize d →
      m.read (s.latch.srcAddr.toNat + 17 + (y * (headerStride s).toNat + x) * psize d + k) =
        s.mem.read (s.latch.srcAddr.toNat + 17 + (y * (headerStride s).toNat + x) * psize d + k)) →
    ∃ t t', exec .cv2Dec s = .next t ∧ exec .cv2Dec { s with mem := m } = .next t' ∧ t.err = .none ∧
      t = { t' with mem := t.mem } ∧
      ∀ a, s.latch.dstAddr.toNat ≤ a → a < s.latch.dstAddr.toNat + t.outLen.toNat → t'.mem.read a = t.mem.read a

/-- R229, R204: CV2_DEC of what CV2_ENC.n wrote, the palette unchanged between them, reproduces each pixel at 24 and 32 bits,
its packed and unpacked Color at 16, and at 8 the pixel itself where the palette holds it and `pal[TIDX]` where not. -/
def Obligations.DecodedImageIsTheEncodedRaster : Prop :=
  ∀ (i : Instr) (d : Depth) (s t u : State), encodeDepth i = some d → EncodeReady d s → exec i s = .next t →
    u.mem = t.mem → u.pal = t.pal → u.palValid = t.palValid → u.dstOcc = false →
    u.latch.srcAddr = s.latch.dstAddr → t.outLen.toNat ≤ u.latch.srcLen.toNat →
    SrcInside u → DstInside u → ¬ WindowsOverlap u →
    s.latch.width.toNat * s.latch.height.toNat * 4 ≤ u.latch.dstCap.toNat →
    ∃ r, exec .cv2Dec u = .next r ∧ r.err = .none ∧ r.width = s.latch.width ∧ r.height = s.latch.height ∧
      r.stride = s.latch.width ∧ r.depth = depthByte d ∧
      ∀ (x y : Nat) (p q : Color), x < s.latch.width.toNat → y < s.latch.height.toNat →
        p = s.mem.color (s.latch.srcAddr.toNat + (y * s.latch.width.toNat + x) * 4) →
        q = r.mem.color (u.latch.dstAddr.toNat + (y * s.latch.width.toNat + x) * 4) →
        (d = .d24 ∨ d = .d32 → q = p) ∧
        (d = .d16 → q = fromPacked16 (toPacked16 p)) ∧
        (d = .d8 → ((∃ k : Fin 256, s.pal.get k = p) → q = p) ∧
          ((∀ k : Fin 256, s.pal.get k ≠ p) → q = s.pal.get s.tidx.toFin))

/-! ### Errors and completion, for every command -/

/-- R300, R302: every command ends in exactly one of two ways, IDLE and DONE: without error, or with an error that has
changed no register, flag, palette entry or byte of memory beside STATUS. -/
def Obligations.EveryCommandCompletesOnceAndErrorsChangeOnlyStatus : Prop :=
  ∀ (i : Instr) (s : State), ∃ t, exec i s = .next t ∧ t.engine = .idle ∧ t.done = true ∧
    (t.err ≠ .none → t = { s with err := t.err, done := true, engine := .idle, wait := 0 })

/-- R305: a command that writes a destination fails with ALREADY_EXISTS exactly while DST_OCC is 1; its success sets
DST_OCC, and no other command changes it. -/
def Obligations.NeverOverwriteAnOccupiedDestination : Prop :=
  ∀ (i : Instr) (s t : State), exec i s = .next t →
    (t.err = .alreadyExists ↔ usesDst i = true ∧ s.dstOcc = true) ∧
    (t.err = .alreadyExists → SameMemory s t ∧ t.dstOcc = true) ∧
    (t.err = .none → usesDst i = true → t.dstOcc = true) ∧
    (usesDst i = false → t.dstOcc = s.dstOcc)

/-- R307, R99: a command ends with RANGE exactly when it is not turned away with ALREADY_EXISTS and a window it uses is not
inside memory, or its two windows overlap; then no content of either window has mattered. -/
def Obligations.RangeExactlyForIllegalWindows : Prop :=
  ∀ (i : Instr) (s t : State), exec i s = .next t →
    (t.err = .range ↔ (usesDst i = false ∨ s.dstOcc = false) ∧ RangeFails i s)

/-- R306: without a valid palette PAL_SAVE, LOOKUP, CV2_ENC.8 and CV2_DEC of depth 8 fail with MISSING_PALETTE once the
checks before it pass, and no other command ever does. -/
def Obligations.MissingPaletteExactlyForPaletteReaders : Prop :=
  ∀ (i : Instr) (s : State),
    (CommonPass i s → s.palValid = false →
      i = .palSave ∨ i = .lookup ∨ i = .cv2Enc8 ∨
        (i = .cv2Dec ∧ 17 ≤ s.latch.srcLen.toNat ∧ s.mem.read s.latch.srcAddr.toNat = 8) →
      FailsWith i s .missingPalette) ∧
    (∀ t, exec i s = .next t → t.err = .missingPalette → s.palValid = false ∧
      (i = .palSave ∨ i = .lookup ∨ i = .cv2Enc8 ∨
        (i = .cv2Dec ∧ 17 ≤ s.latch.srcLen.toNat ∧ s.mem.read s.latch.srcAddr.toNat = 8)))

/-- R98: a command writes buffer memory only in the first OUT_LEN bytes of its destination window, which lie inside the
window and inside memory; a command with no destination window, or one that ends in error, writes none. -/
def Obligations.CommandsWriteOnlyTheirDestination : Prop :=
  ∀ (i : Instr) (s t : State), exec i s = .next t →
    (usesDst i = true → t.err = .none → t.outLen.toNat ≤ s.latch.dstCap.toNat ∧ DstInside s ∧
      SameMemoryOutside s t s.latch.dstAddr.toNat t.outLen.toNat) ∧
    (usesDst i = false ∨ t.err ≠ .none → SameMemory s t)

/-- R98: a command reads buffer memory only inside its source window: in a memory that agrees there it ends in the same
way, and the bytes it writes are the same. -/
def Obligations.CommandsReadOnlyTheirSource : Prop :=
  ∀ (i : Instr) (s : State) (m : Memory),
    (usesSrc i = true → ∀ a, s.latch.srcAddr.toNat ≤ a → a < s.latch.srcAddr.toNat + s.latch.srcLen.toNat →
      m.read a = s.mem.read a) →
    ∃ t t', exec i s = .next t ∧ exec i { s with mem := m } = .next t' ∧ t = { t' with mem := t.mem } ∧
      (usesDst i = true → t.err = .none → ∀ a, s.latch.dstAddr.toNat ≤ a →
        a < s.latch.dstAddr.toNat + t.outLen.toNat → t'.mem.read a = t.mem.read a)

/-- R36, R346, R340: once DST_OCC is 1 a step makes it 0 exactly where it is the host's write of 1 to STATUS bit 2 while
IDLE, or the reset input; such a write of the host always releases it. While it is 1 every command that writes a
destination, at whatever address, fails with ALREADY_EXISTS; so after a command has written its destination every one does,
after any run of a host that neither releases nor resets. That the host is a script of statements is assumption 1, and that
the reset input is one of them, which acts only at the host's turn, is assumption 10. -/
def Obligations.DestinationStaysOccupiedUntilReleased : Prop :=
  (∀ s t : State, s.dstOcc = true → step s = .next t →
    (t.dstOcc = false ↔
      (s.engine = .idle ∧ ∃ v rest, v.getLsbD 2 = true ∧ s.script = .regWrite 32 0x004 v :: rest) ∨
      (s.engineTurn = false ∧ ∃ rest, s.script = .rst :: rest))) ∧
  (∀ (s : State) (v : Word) (rest : List HostOp), s.engine = .idle → v.getLsbD 2 = true →
    s.script = .regWrite 32 0x004 v :: rest → ∃ t, step s = .next t ∧ t.dstOcc = false) ∧
  (∀ (j : Instr) (u : State), usesDst j = true → u.dstOcc = true → FailsWith j u .alreadyExists) ∧
  (∀ (i : Instr) (s t : State), usesDst i = true → exec i s = .next t → t.err = .none →
    t.dstOcc = true ∧
    ∀ (n : Nat) (u : State) (j : Instr), Host.Core.run Sys2Proof.core n t = .next u →
      (∀ op ∈ t.script, op ≠ .rst ∧ ∀ v : Word, v.getLsbD 2 = true → op ≠ .regWrite 32 0x004 v) →
      usesDst j = true → u.dstOcc = true ∧ FailsWith j u .alreadyExists)

/-- R49: the palette store changes only by a successful PAL_LOAD, PAL_SET or PAL_SWATCH, or where the spec makes it
unspecified, by PAL_INVAL or a reset. -/
def Obligations.PaletteStoreChangesOnlyByPaletteCommands : Prop :=
  ∀ s t : State, step s = .next t → t.pal ≠ s.pal →
    (s.engineTurn = true ∧ t.err = .none ∧
      (decode s.latch.cmd = .ok .palLoad ∨ (∃ imm, decode s.latch.cmd = .ok (.palSet imm)) ∨
       decode s.latch.cmd = .ok .palSwatch ∨ decode s.latch.cmd = .ok .palInval)) ∨
    (∃ rest, s.script = .rst :: rest)

/-- 93_implementation_defined.md I4 (R52, R176): while PAL_VALID is 0 the contents of the palette store are never
observed: from two states that differ only there, every step has the same outcome, the palette store apart, and once a
palette is valid the two states are the same. -/
def Obligations.UnspecifiedPaletteIsNeverObserved : Prop :=
  ∀ (s : State) (p : Vector Color 256), s.palValid = false →
    (∀ t, step s = .next t → ∃ t', step { s with pal := p } = .next t' ∧ t = { t' with pal := t.pal } ∧
      (t.palValid = true → t' = t)) ∧
    (∀ f, step s = .fault f → step { s with pal := p } = .fault f) ∧
    (∀ r, step s = .refused r → step { s with pal := p } = .refused r)

/-! ### The host's accesses -/

/-- R45: what a host write of the word `v` at offset `off` does, and that it is ignored entirely while BUSY. -/
def Obligations.RegisterWriteRules : Prop :=
  ∀ (s : State) (off : BitVec 11) (v : Word), off.toNat % 4 = 0 →
    s.writeOffset off v =
      if s.engine = .busy then s
      else if off = 0x000 then { s with ie := v.getLsbD 0 }
      else if off = 0x004 then
        { s with
          done := if v.getLsbD 1 then false else s.done, dstOcc := if v.getLsbD 2 then false else s.dstOcc }
      else if off = 0x008 then s.issue v
      else if off = 0x00C then { s with srcAddr := v }
      else if off = 0x010 then { s with srcLen := v }
      else if off = 0x014 then { s with dstAddr := v }
      else if off = 0x018 then { s with dstCap := v }
      else if off = 0x01C then { s with width := v }
      else if off = 0x020 then { s with height := v }
      else if off = 0x02C then { s with color := v }
      else s

/-- R46, R33-R44: what a host read of a named register returns, its reserved bits 0. -/
def Obligations.RegisterReadRules : Prop :=
  ∀ s : State,
    (s.readOffset 0x000).toNat = s.ie.toNat ∧
    (s.readOffset 0x004).toNat = s.tvalid.toNat * 512 + s.palValid.toNat * 256 + s.err.code.toNat * 16 +
      s.dstOcc.toNat * 4 + s.done.toNat * 2 + (if s.engine = .busy then 1 else 0) ∧
    s.readOffset 0x008 = s.cmd ∧ s.readOffset 0x00C = s.srcAddr ∧ s.readOffset 0x010 = s.srcLen ∧
    s.readOffset 0x014 = s.dstAddr ∧ s.readOffset 0x018 = s.dstCap ∧ s.readOffset 0x01C = s.width ∧
    s.readOffset 0x020 = s.height ∧ s.readOffset 0x024 = s.stride ∧
    (s.readOffset 0x028).toNat = s.depth.toNat ∧ s.readOffset 0x02C = s.color ∧
    (s.readOffset 0x030).toNat = s.resultHit.toNat * 256 + s.resultIndex.toNat ∧
    (s.readOffset 0x034).toNat = s.tidx.toNat ∧ s.readOffset 0x038 = s.outLen

/-- R50: PAL[i] at offset 0x400 + 4i reads as the entry's channels A, B, G, R from the top while PAL_VALID is 1 and as 0
otherwise, and writes to it are ignored. -/
def Obligations.PaletteWindowReadsTheStoreOrZero : Prop :=
  ∀ (s : State) (i : Fin 256) (off : BitVec 11), off.toNat = 0x400 + 4 * i.val →
    (s.palValid = true →
      s.readOffset off = (s.pal.get i).a ++ (s.pal.get i).b ++ (s.pal.get i).g ++ (s.pal.get i).r) ∧
    (s.palValid = false → s.readOffset off = 0) ∧
    (∀ v : Word, s.writeOffset off v = s)

/-- R48: the offsets 0x03C-0x3FC and the reserved bits of every register read as zero, and writes to them are ignored. -/
def Obligations.UnmappedOffsetsAndReservedBits : Prop :=
  (∀ (s : State) (off : BitVec 11) (v : Word), 0x03C ≤ off.toNat → off.toNat ≤ 0x3FC →
    s.readOffset off = 0 ∧ s.writeOffset off v = s) ∧
  (∀ s : State, s.readOffset 0x000 &&& 0xFFFFFFFE = 0 ∧ s.readOffset 0x004 &&& 0xFFFFFC08 = 0 ∧
    s.readOffset 0x028 &&& 0xFFFFFF00 = 0 ∧ s.readOffset 0x030 &&& 0xFFFFFE00 = 0 ∧
    s.readOffset 0x034 &&& 0xFFFFFF00 = 0) ∧
  (∀ (s : State) (v : Word), s.writeOffset 0x000 v = s.writeOffset 0x000 (v &&& 0x1) ∧
    s.writeOffset 0x004 v = s.writeOffset 0x004 (v &&& 0x6) ∧ s.writeOffset 0x028 v = s ∧
    s.writeOffset 0x030 v = s ∧ s.writeOffset 0x034 v = s)

/-- R47, R45, R46: a host access that is not 32 bits wide, or at an offset that is not a multiple of 4, is refused as a bus
error; one of the right form is the register write or read at that offset. That such a write is refused also while BUSY,
where R45 has a write ignored, is the model's choice, assumption 14. That it is the host's turn, that one host turn of latency
is used up, and where the value read is kept are assumptions 1, 8 and 15. -/
def Obligations.OnlyAlignedWordAccessesAreAccepted : Prop :=
  ∀ (s u : State) (width : Nat) (off : BitVec 11) (v : Word) (rest : List HostOp), s.engineTurn = false →
    u = { s with script := rest, wait := s.wait - 1 } →
    (width ≠ 32 ∨ off.toNat % 4 ≠ 0 →
      (s.script = .regWrite width off v :: rest → step s = .refused .busError) ∧
      (s.script = .regRead width off :: rest → step s = .refused .busError)) ∧
    (width = 32 → off.toNat % 4 = 0 →
      (s.script = .regWrite width off v :: rest → step s = .next (u.writeOffset off v)) ∧
      (s.script = .regRead width off :: rest →
        step s = .next { u with reads := .word (s.readOffset off) :: u.reads }))

/-- R32: the host cannot write a read-only register: no statement but a reset changes STRIDE, DEPTH, RESULT, TIDX, OUT_LEN,
ERR other than by issuing a command, PAL_VALID, TVALID or the palette store. -/
def Obligations.HostCannotWriteReadOnlyRegisters : Prop :=
  ∀ s t : State, s.engineTurn = false → (∀ rest, s.script ≠ .rst :: rest) → step s = .next t →
    t.stride = s.stride ∧ t.depth = s.depth ∧ t.resultIndex = s.resultIndex ∧ t.resultHit = s.resultHit ∧
    t.tidx = s.tidx ∧ t.outLen = s.outLen ∧ t.palValid = s.palValid ∧ t.tvalid = s.tvalid ∧ t.pal = s.pal ∧
    (t.err = s.err ∨ (t.err = .none ∧ t.engine = .busy))

/-- R100: while IDLE the host may read and write any bytes of buffer memory; while a command runs, an access that touches a
byte of its source or destination window faults, and one that touches neither goes through and does nothing else. That the
windows are those the command uses is assumption 12. Accesses to bytes that memory does not have are
`Obligations.HostBufferAccessOutsideMemoryFaults`. -/
def Obligations.HostBufferAccessFaultsOnlyInRunningWindows : Prop :=
  ∀ (s t : State) (op : HostOp) (rest : List HostOp) (addr : Word) (n : Nat), s.engineTurn = false →
    s.script = op :: rest → addr.toNat + n ≤ s.cfg.memSize →
    (∃ bs, op = .memWrite addr bs ∧ bs.length = n ∧
        t = { s with script := rest, wait := s.wait - 1, mem := s.mem.writeBytes addr.toNat bs }) ∨
      (op = .memRead addr n ∧
        t = { s with
          script := rest, wait := s.wait - 1, reads := .bytes (s.mem.readBytes addr.toNat n) :: s.reads }) →
    (s.engine = .idle → step s = .next t) ∧
    (∀ i, s.engine = .busy → decode s.latch.cmd = .ok i →
      ((∃ a, addr.toNat ≤ a ∧ a < addr.toNat + n ∧
        ((usesSrc i = true ∧ s.latch.srcAddr.toNat ≤ a ∧ a < s.latch.srcAddr.toNat + s.latch.srcLen.toNat) ∨
         (usesDst i = true ∧ s.latch.dstAddr.toNat ≤ a ∧ a < s.latch.dstAddr.toNat + s.latch.dstCap.toNat))) →
        step s = .fault .bufferHazard) ∧
      ((∀ a, addr.toNat ≤ a → a < addr.toNat + n →
        ¬ (usesSrc i = true ∧ s.latch.srcAddr.toNat ≤ a ∧ a < s.latch.srcAddr.toNat + s.latch.srcLen.toNat) ∧
        ¬ (usesDst i = true ∧ s.latch.dstAddr.toNat ≤ a ∧ a < s.latch.dstAddr.toNat + s.latch.dstCap.toNat)) →
        step s = .next t))

/-- R80, R101: bytes the host writes to buffer memory while IDLE are what it reads back there, and every other byte is
unchanged. -/
def Obligations.HostReadsBackWhatItWrote : Prop :=
  ∀ (s : State) (addr : Word) (bs : List Byte) (rest : List HostOp), s.engine = .idle →
    s.script = .memWrite addr bs :: .memRead addr bs.length :: rest → addr.toNat + bs.length ≤ s.cfg.memSize →
    ∃ u t, step s = .next u ∧ step u = .next t ∧ t.reads = .bytes bs :: s.reads ∧ t.script = rest ∧
      SameMemoryOutside s t addr.toNat bs.length

/-! ### Interrupt, reset, end of a run -/

/-- R310: `irq` is `CTRL.IE & STATUS.DONE`. It is IE after every completion, and takes the value of DONE when the host sets
IE; it is 0 after the host writes 1 to STATUS bit 1, issues a command, legal or not, clears IE, or at reset. -/
def Obligations.InterruptFollowsDone : Prop :=
  (∀ s : State, s.irq = true ↔ s.ie = true ∧ s.done = true) ∧
  (∀ (i : Instr) (s t : State), exec i s = .next t → t.irq = s.ie) ∧
  (∀ s : State, (s.finish .illegalCmd).irq = s.ie) ∧
  (∀ (s : State) (v : Word), s.engine = .idle →
    (s.writeOffset 0x000 v).irq = (v.getLsbD 0 && s.done) ∧
    (v.getLsbD 1 = true → (s.writeOffset 0x004 v).irq = false) ∧
    (s.writeOffset 0x008 v).irq = false) ∧
  (∀ s : State, s.pulseReset.irq = false)

/-- R52: the state after reset: engine IDLE, every register and flag 0, `irq` 0, and the PAL window masked. -/
def Obligations.ResetStateIsThatOfTheTable : Prop :=
  State.reset.engine = .idle ∧ State.reset.irq = false ∧
  (∀ off : BitVec 11, State.reset.readOffset off = 0)

/-- R340, R342: a reset gives every register and flag its reset value and makes the engine IDLE; buffer memory is unchanged
unless a command was running; what the model says of the host (its script goes on, its reads are kept) is assumption 10. -/
def Obligations.ResetPulseClearsEveryRegister : Prop :=
  ∀ (s : State) (rest : List HostOp), s.engineTurn = false → s.script = .rst :: rest →
    ∃ t, step s = .next t ∧ t.engine = .idle ∧ t.irq = false ∧ (∀ off : BitVec 11, t.readOffset off = 0) ∧
      t.palValid = false ∧ t.cfg = s.cfg ∧ t.script = rest ∧ t.reads = s.reads ∧
      (s.engine = .idle → SameMemory s t)

/-- R341: a reset while a command runs abandons it: DONE stays 0, no result register is written, PAL_VALID is 0, and every
byte outside the command's destination window is unchanged. The bytes inside are free values (assumption 5), so nothing is
said of them. The last clause is the model's choice, assumption 17: a command that R98 gives no destination window leaves all
of memory unchanged, whatever DST_ADDR and DST_CAP hold. -/
def Obligations.ResetWhileBusyTouchesOnlyTheDestination : Prop :=
  ∀ (s t : State) (i : Instr) (rest : List HostOp), s.engine = .busy → s.engineTurn = false →
    decode s.latch.cmd = .ok i → s.script = .rst :: rest → step s = .next t →
    t.engine = .idle ∧ t.done = false ∧ t.err = .none ∧ t.palValid = false ∧ t.outLen = 0 ∧
    (usesDst i = true → SameMemoryOutside s t s.latch.dstAddr.toNat s.latch.dstCap.toNat) ∧
    (usesDst i = false → SameMemory s t)

/-- R350: once the host has run its last statement and the engine is IDLE, every further step changes nothing. -/
def Obligations.EndedRunStaysEnded : Prop :=
  ∀ (s : State) (n : Nat), s.ended → Host.Core.run Sys2Proof.core n s = .next s

/-! ### Invariants -/

/-- The invariant holds at reset. -/
def Obligations.ResetMeetsTheInvariant : Prop := State.reset.Inv

/-- Every step keeps the invariant: memory canonical and inside MEM_SIZE (R80), BUSY and DONE never together and ERR 0
while BUSY (R35, R37), latched operands equal to the registers while BUSY (R45, R51), TVALID only with a palette and TIDX 0
without it (R38), DEPTH a bit depth or 0 (R42), OUT_LEN at most MEM_SIZE (R44, R98). -/
def Obligations.EveryStepKeepsTheInvariant : Prop :=
  ∀ s t : State, s.Inv → step s = .next t → t.Inv

/-- R5: no step changes the named parameters of the block. -/
def Obligations.ParametersNeverChange : Prop :=
  ∀ s t : State, step s = .next t → t.cfg = s.cfg

/-! ### Host accesses to bytes that memory does not have -/

/-- R80, assumption 13 (the model's deduction): the machine stops with `bufferOutside` exactly where, at the host's turn, the
host reads or writes at least one byte and the last byte of the access lies at or above MEM_SIZE, whether or not a command
runs; an access of no byte goes through at every address and changes no memory. -/
def Obligations.HostBufferAccessOutsideMemoryFaults : Prop :=
  (∀ s : State, step s = .fault .bufferOutside ↔
    s.engineTurn = false ∧ ∃ (op : HostOp) (rest : List HostOp) (addr : Word) (n : Nat), s.script = op :: rest ∧
      (op = .memRead addr n ∨ ∃ bs, op = .memWrite addr bs ∧ bs.length = n) ∧ 0 < n ∧ s.cfg.memSize < addr.toNat + n) ∧
  (∀ (s : State) (addr : Word) (rest : List HostOp), s.engineTurn = false →
    (s.script = .memRead addr 0 :: rest →
      step s = .next { s with script := rest, wait := s.wait - 1, reads := .bytes [] :: s.reads }) ∧
    (s.script = .memWrite addr [] :: rest → step s = .next { s with script := rest, wait := s.wait - 1 }))
end

