-- ==== Sys2Proof/Laws/Memory.lean ====
section
/-! SUPPORT. The laws of buffer memory: what a byte reads as after each operation, and that every operation keeps the
canonical form and the bounds. -/

namespace Sys2Proof.Machine

/-! ### Reading after writing -/

@[simp] theorem Memory.read_nil (x : Nat) : Memory.read [] x = Memory.unlisted := rfl

theorem Memory.read_cons (k : Nat) (b : Byte) (m : Memory) (x : Nat) :
    Memory.read ((k, b) :: m) x = if k = x then b else m.read x := rfl

theorem Memory.erase_fst_ne (m : Memory) (a : Nat) : ∀ c ∈ m.erase a, c.1 ≠ a := by
  induction m with
  | nil => simp [Memory.erase]
  | cons c m ih =>
    obtain ⟨k, b⟩ := c
    unfold Memory.erase
    split
    · exact ih
    · rename_i h
      intro c hc
      rcases List.mem_cons.mp hc with rfl | hc
      · exact h
      · exact ih c hc

theorem Memory.read_erase (m : Memory) (a x : Nat) :
    (m.erase a).read x = if x = a then Memory.unlisted else m.read x := by
  induction m with
  | nil => simp [Memory.erase]
  | cons c m ih =>
    obtain ⟨k, b⟩ := c
    unfold Memory.erase
    by_cases hk : k = a
    · rw [if_pos hk, ih, Memory.read_cons]
      by_cases hx : x = a
      · simp [hx]
      · rw [if_neg hx, if_neg hx, if_neg (by omega)]
    · rw [if_neg hk, Memory.read_cons, ih, Memory.read_cons]
      by_cases hx : x = a
      · rw [if_neg (by omega)]; simp [hx]
      · simp [hx]

theorem Memory.read_insert (m : Memory) (a : Nat) (v : Byte) (h : ∀ c ∈ m, c.1 ≠ a) (x : Nat) :
    (m.insert a v).read x = if x = a then v else m.read x := by
  induction m with
  | nil => simp only [Memory.insert, Memory.read_cons, eq_comm]
  | cons c m ih =>
    obtain ⟨k, b⟩ := c
    have hka : k ≠ a := h (k, b) (by simp)
    unfold Memory.insert
    split
    · rw [Memory.read_cons]; simp only [eq_comm]
    · rw [Memory.read_cons, ih fun c hc => h c (by simp [hc]), Memory.read_cons]
      by_cases hx : x = a
      · rw [if_neg (by omega)]; simp [hx]
      · simp [hx]

/-- A write changes the byte it names and no other (R7). -/
theorem Memory.read_write (m : Memory) (a : Nat) (v : Byte) (x : Nat) :
    (m.write a v).read x = if x = a then v else m.read x := by
  unfold Memory.write
  split
  · rename_i h
    rw [Memory.read_erase, h]
  · rw [Memory.read_insert _ _ _ (m.erase_fst_ne a), Memory.read_erase]
    split <;> rfl

/-- What a byte reads as after a run of bytes is written (R7). -/
theorem Memory.read_writeBytes (m : Memory) (a : Nat) (bs : List Byte) (x : Nat) :
    (m.writeBytes a bs).read x = if h : a ≤ x ∧ x < a + bs.length then bs[x - a] else m.read x := by
  induction bs generalizing m a with
  | nil => simp [Memory.writeBytes]
  | cons b bs ih =>
    rw [Memory.writeBytes, ih, Memory.read_write]
    simp only [List.length_cons]
    by_cases hxa : x = a
    · subst hxa
      rw [dif_neg (by omega), if_pos rfl, dif_pos (by omega)]
      simp
    · by_cases h : a ≤ x ∧ x < a + (bs.length + 1)
      · have hx : x - a = (x - (a + 1)) + 1 := by omega
        rw [dif_pos (by omega), dif_pos h]
        simp only [hx, List.getElem_cons_succ]
      · rw [dif_neg (by omega), dif_neg h, if_neg hxa]

theorem Memory.read_writeBytes_of_outside (m : Memory) (a : Nat) (bs : List Byte) (x : Nat)
    (h : x < a ∨ a + bs.length ≤ x) : (m.writeBytes a bs).read x = m.read x := by
  rw [Memory.read_writeBytes, dif_neg (by omega)]

theorem Memory.read_writeBytes_of_lt (m : Memory) (a : Nat) (bs : List Byte) (k : Nat) (h : k < bs.length) :
    (m.writeBytes a bs).read (a + k) = bs[k] := by
  rw [Memory.read_writeBytes, dif_pos (by omega)]
  simp

@[simp] theorem Memory.length_readBytes (m : Memory) (a n : Nat) : (m.readBytes a n).length = n := by
  simp [Memory.readBytes]

theorem Memory.getElem_readBytes (m : Memory) (a n k : Nat) (h : k < (m.readBytes a n).length) :
    (m.readBytes a n)[k] = m.read (a + k) := by
  simp [Memory.readBytes]

/-- Bytes read back from inside a written run are that part of the run. -/
theorem Memory.readBytes_writeBytes (m : Memory) (a : Nat) (bs : List Byte) (k n : Nat) (h : k + n ≤ bs.length) :
    (m.writeBytes a bs).readBytes (a + k) n = (bs.drop k).take n := by
  apply List.ext_getElem
  · simp; omega
  · intro j h1 h2
    have hj : j < n := by simpa using h1
    rw [Memory.getElem_readBytes, Nat.add_assoc, Memory.read_writeBytes_of_lt _ _ _ _ (by omega)]
    simp

/-! ### The canonical form -/

theorem Memory.wfFrom_cons (lo k : Nat) (b : Byte) (m : Memory) :
    Memory.wfFrom lo ((k, b) :: m) = true ↔ lo ≤ k ∧ b ≠ Memory.unlisted ∧ Memory.wfFrom (k + 1) m = true := by
  simp [Memory.wfFrom, and_assoc]

theorem Memory.wfFrom_mono {lo lo' : Nat} {m : Memory} (h : lo' ≤ lo) (hm : Memory.wfFrom lo m = true) :
    Memory.wfFrom lo' m = true := by
  cases m with
  | nil => rfl
  | cons c m =>
    obtain ⟨k, b⟩ := c
    rw [Memory.wfFrom_cons] at hm ⊢
    exact ⟨by omega, hm.2⟩

theorem Memory.wfFrom_erase {lo : Nat} {m : Memory} (a : Nat) (hm : Memory.wfFrom lo m = true) :
    Memory.wfFrom lo (m.erase a) = true := by
  induction m generalizing lo with
  | nil => rfl
  | cons c m ih =>
    obtain ⟨k, b⟩ := c
    rw [Memory.wfFrom_cons] at hm
    unfold Memory.erase
    split
    · exact Memory.wfFrom_mono (by omega) (ih hm.2.2)
    · rw [Memory.wfFrom_cons]
      exact ⟨hm.1, hm.2.1, ih hm.2.2⟩

theorem Memory.wfFrom_insert {lo : Nat} {m : Memory} {a : Nat} {v : Byte} (hv : v ≠ Memory.unlisted)
    (hlo : lo ≤ a) (hne : ∀ c ∈ m, c.1 ≠ a) (hm : Memory.wfFrom lo m = true) :
    Memory.wfFrom lo (m.insert a v) = true := by
  induction m generalizing lo with
  | nil => simp [Memory.insert, Memory.wfFrom, hlo, hv]
  | cons c m ih =>
    obtain ⟨k, b⟩ := c
    have hka : k ≠ a := hne (k, b) (by simp)
    rw [Memory.wfFrom_cons] at hm
    unfold Memory.insert
    split
    · simp only [Memory.wfFrom_cons]
      exact ⟨hlo, hv, by omega, hm.2⟩
    · rw [Memory.wfFrom_cons]
      exact ⟨hm.1, hm.2.1, ih (by omega) (fun c hc => hne c (by simp [hc])) hm.2.2⟩

theorem Memory.wf_write {m : Memory} (a : Nat) (v : Byte) (hm : m.wf = true) : (m.write a v).wf = true := by
  unfold Memory.write
  split
  · exact Memory.wfFrom_erase a hm
  · rename_i h
    exact Memory.wfFrom_insert h (Nat.zero_le a) (m.erase_fst_ne a) (Memory.wfFrom_erase a hm)

theorem Memory.wf_writeBytes {m : Memory} (a : Nat) (bs : List Byte) (hm : m.wf = true) :
    (m.writeBytes a bs).wf = true := by
  induction bs generalizing m a with
  | nil => exact hm
  | cons b bs ih => exact ih (a + 1) (Memory.wf_write a b hm)

/-! ### The bounds -/

theorem Memory.within_iff {m : Memory} {n : Nat} : m.within n = true ↔ ∀ c ∈ m, c.1 < n := by
  simp [Memory.within]

theorem Memory.mem_erase {m : Memory} {a : Nat} {c : Host.Cell} (h : c ∈ m.erase a) : c ∈ m := by
  induction m with
  | nil => exact h
  | cons d m ih =>
    obtain ⟨k, b⟩ := d
    unfold Memory.erase at h
    split at h
    · exact List.mem_cons_of_mem _ (ih h)
    · rcases List.mem_cons.mp h with rfl | h
      · exact List.mem_cons_self
      · exact List.mem_cons_of_mem _ (ih h)

theorem Memory.mem_insert {m : Memory} {a : Nat} {v : Byte} {c : Host.Cell} (h : c ∈ m.insert a v) :
    c = (a, v) ∨ c ∈ m := by
  induction m with
  | nil => simpa [Memory.insert] using h
  | cons d m ih =>
    obtain ⟨k, b⟩ := d
    unfold Memory.insert at h
    split at h
    · simpa using h
    · rcases List.mem_cons.mp h with rfl | h
      · simp
      · rcases ih h with h | h
        · exact .inl h
        · exact .inr (List.mem_cons_of_mem _ h)

theorem Memory.within_write {m : Memory} {n a : Nat} (v : Byte) (ha : a < n) (hm : m.within n = true) :
    (m.write a v).within n = true := by
  rw [Memory.within_iff] at hm ⊢
  intro c hc
  unfold Memory.write at hc
  split at hc
  · exact hm c (Memory.mem_erase hc)
  · rcases Memory.mem_insert hc with rfl | hc
    · exact ha
    · exact hm c (Memory.mem_erase hc)

theorem Memory.within_writeBytes {m : Memory} {n a : Nat} (bs : List Byte) (ha : a + bs.length ≤ n ∨ bs = [])
    (hm : m.within n = true) : (m.writeBytes a bs).within n = true := by
  induction bs generalizing m a with
  | nil => exact hm
  | cons b bs ih =>
    have h : a + (bs.length + 1) ≤ n := by simpa using ha
    exact ih (.inl (by omega)) (Memory.within_write b (by omega) hm)

/-! ### Wider reads -/

theorem Memory.color_congr {m m' : Memory} {a : Nat} (h : ∀ k, k < 4 → m.read (a + k) = m'.read (a + k)) :
    m.color a = m'.color a := by
  simp only [Memory.color]
  rw [← Nat.add_zero a, h 0 (by omega), Nat.add_zero, h 1 (by omega), h 2 (by omega), h 3 (by omega)]

theorem Memory.half_congr {m m' : Memory} {a : Nat} (h : ∀ k, k < 2 → m.read (a + k) = m'.read (a + k)) :
    m.half a = m'.half a := by
  simp only [Memory.half]
  rw [← Nat.add_zero a, h 0 (by omega), Nat.add_zero, h 1 (by omega)]

theorem Memory.word_congr {m m' : Memory} {a : Nat} (h : ∀ k, k < 4 → m.read (a + k) = m'.read (a + k)) :
    m.word a = m'.word a := by
  simp only [Memory.word]
  rw [← Nat.add_zero a, h 0 (by omega), Nat.add_zero, h 1 (by omega), h 2 (by omega), h 3 (by omega)]

/-- The four bytes of a raster pixel are those of its Color (R95). -/
theorem Memory.readBytes_color (m : Memory) (a : Nat) : m.readBytes a 4 = (m.color a).bytes := rfl

end Sys2Proof.Machine
end

