-- ==== Sys2Proof/Laws/Codec.lean ====
section
/-! SUPPORT. One lemma for each conversion function: what the palette store holds, what the search returns, the lengths of the
images written, where a pixel stands in them, and the signed dimensions. -/

namespace Sys2Proof.Machine

/-! ### The palette store -/

@[simp] theorem palOf_getElem (f : Nat → Color) (i : Nat) (h : i < 256) : (palOf f)[i] = f i := by
  unfold palOf
  exact Vector.getElem_ofFn h

@[simp] theorem palOf_get (f : Nat → Color) (i : Fin 256) : (palOf f).get i = f i.val :=
  (Vector.get_eq_getElem ..).trans (palOf_getElem f i.val i.isLt)

theorem palOf_congr {f g : Nat → Color} (h : ∀ i, i < 256 → f i = g i) : palOf f = palOf g := by
  apply Vector.ext
  intro i hi
  rw [palOf_getElem, palOf_getElem, h i hi]

/-! ### The search (R200) -/

/-- What FindIndex returns: the lowest index that holds the colour, or TIDX where none does. -/
theorem findIndex_cases (pal : Vector Color 256) (tidx : Byte) (c : Color) :
    (∃ i : Fin 256, pal.get i = c ∧ (∀ j : Fin 256, j < i → pal.get j ≠ c) ∧
      findIndex pal tidx c = (BitVec.ofFin i, true)) ∨
    ((∀ i : Fin 256, pal.get i ≠ c) ∧ findIndex pal tidx c = (tidx, false)) := by
  unfold findIndex
  split
  · rename_i i h
    rw [List.findIdx?_eq_some_iff_getElem] at h
    obtain ⟨hi, he, hj⟩ := h
    have hi' : i < 256 := by simpa using hi
    refine .inl ⟨⟨i, hi'⟩, ?_, ?_, ?_⟩
    · simpa [Vector.get_eq_getElem] using he
    · intro j hjlt
      have := hj j.val hjlt
      simpa [Vector.get_eq_getElem] using this
    · congr 1
      apply BitVec.eq_of_toNat_eq
      simp
      omega
  · rename_i h
    rw [List.findIdx?_eq_none_iff] at h
    refine .inr ⟨fun i hc => ?_, rfl⟩
    have := h (pal.get i) (by simp [Vector.get_eq_getElem])
    simp [hc] at this

/-! ### Lengths -/

@[simp] theorem bytesLE16_length (w : Half) : (bytesLE16 w).length = 2 := rfl
@[simp] theorem bytesLE32_length (w : Word) : (bytesLE32 w).length = 4 := rfl
@[simp] theorem Color.bytes_length (c : Color) : c.bytes.length = 4 := rfl
@[simp] theorem cv2Header_length (d : Depth) (w h : Word) : (cv2Header d w h).length = 17 := rfl

@[simp] theorem packPixel_length (d : Depth) (pal : Vector Color 256) (tidx : Byte) (c : Color) :
    (packPixel d pal tidx c).length = psize d := by
  cases d <;> rfl

/-- A list built from `n` runs of `k` bytes each has `n * k` bytes. -/
theorem length_flatMap_range (n k : Nat) (f : Nat → List Byte) (h : ∀ i, i < n → (f i).length = k) :
    ((List.range n).flatMap f).length = n * k := by
  induction n with
  | zero => simp
  | succ n ih =>
    rw [List.range_succ, List.flatMap_append, List.length_append, ih fun i hi => h i (by omega)]
    simp [h n (by omega), Nat.succ_mul]

/-- Run `i` of a list built from runs of `k` bytes stands at offset `i * k`. -/
theorem slice_flatMap_range (n k : Nat) (f : Nat → List Byte) (h : ∀ i, i < n → (f i).length = k) (i : Nat)
    (hi : i < n) : (((List.range n).flatMap f).drop (i * k)).take k = f i := by
  induction n with
  | zero => omega
  | succ n ih =>
    have hl := length_flatMap_range n k f fun i hi => h i (by omega)
    rw [List.range_succ, List.flatMap_append]
    by_cases hin : i = n
    · subst hin
      rw [List.drop_append_of_le_length (by omega), ← hl, List.drop_length]
      simp only [List.flatMap_cons, List.flatMap_nil, List.append_nil, List.nil_append]
      rw [← h i hi, List.take_length]
    · have hlt : i < n := by omega
      have hle : i * k + k ≤ n * k := by rw [← Nat.succ_mul]; exact Nat.mul_le_mul_right k hlt
      rw [List.drop_append_of_le_length (by omega), List.take_append_of_le_length (by rw [List.length_drop, hl]; omega)]
      exact ih (fun i hi => h i (by omega)) hlt

theorem length_packedList (l : List Color) : (l.flatMap fun c => bytesLE16 (toPacked16 c)).length = l.length * 2 := by
  induction l with
  | nil => rfl
  | cons c l ih => rw [List.flatMap_cons, List.length_append, ih, bytesLE16_length, List.length_cons]; omega

@[simp] theorem palImage_length (pal : Vector Color 256) : (palImage pal).length = 513 := by
  rw [palImage, List.length_cons, length_packedList, Vector.length_toList]

theorem encodeRow_length (d : Depth) (s : State) (src w y : Nat) :
    ((List.range w).flatMap fun x => packPixel d s.pal s.tidx (s.mem.color (src + pixelOffset w x y))).length =
      w * psize d :=
  length_flatMap_range _ _ _ fun _ _ => packPixel_length ..

@[simp] theorem encodeBody_length (d : Depth) (s : State) (src w h : Nat) :
    (encodeBody d s src w h).length = h * (w * psize d) :=
  length_flatMap_range _ _ _ fun _ _ => encodeRow_length ..

@[simp] theorem encodeImage_length (d : Depth) (s : State) :
    (encodeImage d s).length = cv2Size d s.latch.width.toNat s.latch.height.toNat := by
  simp only [encodeImage, List.length_append, cv2Header_length, encodeBody_length, cv2Size]
  rw [← Nat.mul_assoc, Nat.mul_comm s.latch.height.toNat]

/-- Only the first `w` of the consumed columns give bytes (R261). -/
theorem decodeRow_eq (g : Nat → List Byte) (w st : Nat) (h : w ≤ st) :
    ((List.range st).flatMap fun x => if x < w then g x else []) = (List.range w).flatMap g := by
  obtain ⟨k, rfl⟩ := Nat.exists_eq_add_of_le h
  rw [List.range_add, List.flatMap_append]
  have h1 : ((List.range w).flatMap fun x => if x < w then g x else []) = (List.range w).flatMap g :=
    List.flatMap_congr fun x hx => by simp [List.mem_range.mp hx]
  have h2 : (((List.range k).map (w + ·)).flatMap fun x => if x < w then g x else []) = [] := by
    simp [List.flatMap_eq_nil_iff]
  rw [h1, h2, List.append_nil]

theorem decodeRow_length (d : Depth) (s : State) (body w st y : Nat) (h : w ≤ st) :
    ((List.range st).flatMap fun x =>
      if x < w then (unpackPixel d s.pal s.mem (body + (y * st + x) * psize d)).bytes else []).length = w * 4 := by
  rw [decodeRow_eq (fun x => (unpackPixel d s.pal s.mem (body + (y * st + x) * psize d)).bytes) w st h]
  exact length_flatMap_range _ _ _ fun _ _ => Color.bytes_length _

theorem decodeBody_length (d : Depth) (s : State) (body w h st : Nat) (hw : w ≤ st) :
    (decodeBody d s body w h st).length = w * h * 4 := by
  rw [decodeBody, length_flatMap_range _ _ _ fun y _ => decodeRow_length d s body w st y hw, ← Nat.mul_assoc,
    Nat.mul_comm h]

/-! ### Where a pixel stands -/

/-- Pixel (x, y) of the packed body, `psize` bytes at `(y·w + x)·psize` (R93). -/
theorem encodeBody_slice (d : Depth) (s : State) (src w h x y : Nat) (hx : x < w) (hy : y < h) :
    ((encodeBody d s src w h).drop ((y * w + x) * psize d)).take (psize d) =
      packPixel d s.pal s.tidx (s.mem.color (src + pixelOffset w x y)) := by
  have hrow := slice_flatMap_range h (w * psize d) _ (fun y _ => encodeRow_length d s src w y) y hy
  have hpix := slice_flatMap_range w (psize d)
    (fun x => packPixel d s.pal s.tidx (s.mem.color (src + pixelOffset w x y))) (fun _ _ => packPixel_length ..) x hx
  rw [← hrow] at hpix
  rw [← hpix, List.drop_take, List.take_take, List.drop_drop, encodeBody]
  have hle : x * psize d + psize d ≤ w * psize d := by
    rw [← Nat.succ_mul]; exact Nat.mul_le_mul_right _ hx
  congr 1
  · omega
  · congr 1
    rw [Nat.add_mul, Nat.mul_assoc]

/-- Pixel (x, y) of the raster, four bytes at `(y·w + x)·4` (R95, R261). -/
theorem decodeBody_slice (d : Depth) (s : State) (body w h st x y : Nat) (hw : w ≤ st) (hx : x < w) (hy : y < h) :
    ((decodeBody d s body w h st).drop ((y * w + x) * 4)).take 4 =
      (unpackPixel d s.pal s.mem (body + (y * st + x) * psize d)).bytes := by
  have hrow := slice_flatMap_range h (w * 4) _ (fun y _ => decodeRow_length d s body w st y hw) y hy
  have hpix := slice_flatMap_range w 4
    (fun x => (unpackPixel d s.pal s.mem (body + (y * st + x) * psize d)).bytes) (fun _ _ => Color.bytes_length _) x hx
  rw [← decodeRow_eq _ w st hw, ← hrow] at hpix
  rw [← hpix, List.drop_take, List.take_take, List.drop_drop, decodeBody]
  congr 1
  · omega
  · congr 1
    rw [Nat.add_mul, Nat.mul_assoc]

/-- Entry `i` of a PAL image, two bytes at `1 + 2i` (R90). -/
theorem palImage_slice (pal : Vector Color 256) (i : Fin 256) :
    ((palImage pal).drop (1 + 2 * i)).take 2 = bytesLE16 (toPacked16 (pal.get i)) := by
  have h := slice_flatMap_range 256 2 (fun k => bytesLE16 (toPacked16 (pal.toList.getD k ⟨0, 0, 0, 0⟩)))
    (fun _ _ => rfl) i i.isLt
  have hl : pal.toList.flatMap (fun c => bytesLE16 (toPacked16 c)) =
      (List.range 256).flatMap fun k => bytesLE16 (toPacked16 (pal.toList.getD k ⟨0, 0, 0, 0⟩)) := by
    have : pal.toList = (List.range 256).map fun k => pal.toList.getD k ⟨0, 0, 0, 0⟩ := by
      apply List.ext_getElem
      · simp
      · intro n h1 h2
        simp only [List.getElem_map, List.getElem_range, List.getD_eq_getElem?_getD, List.getElem?_eq_getElem h1,
          Option.getD_some]
    conv_lhs => rw [this]
    rw [List.flatMap_map]
  rw [palImage, Nat.add_comm, List.drop_succ_cons, Nat.mul_comm, hl, h]
  simp [List.getD_eq_getElem?_getD, Vector.get_eq_getElem]

/-! ### Fields -/

theorem le16_bytes (w : Half) : le16 (w.extractLsb' 0 8) (w.extractLsb' 8 8) = w := by
  unfold le16; bv_normalize

theorem le32_bytes (v : Word) :
    le32 (v.extractLsb' 0 8) (v.extractLsb' 8 8) (v.extractLsb' 16 8) (v.extractLsb' 24 8) = v := by
  unfold le32; bv_normalize

/-- A dimension that is at least 1 as s32 has the same value as an unsigned number, at most 2^31 - 1 (R221). -/
theorem s32_eq_toNat {v : Word} (h : 1 ≤ s32 v) : s32 v = (v.toNat : Int) ∧ 1 ≤ v.toNat ∧ v.toNat < 2 ^ 31 := by
  simp only [s32, BitVec.toInt_eq_toNat_cond] at h ⊢
  have := v.isLt
  split at h <;> omega

theorem depthOfByte_depthByte (d : Depth) : depthOfByte (depthByte d) = some d := by
  cases d <;> rfl

theorem depthOfByte_eq_some {b : Byte} {d : Depth} : depthOfByte b = some d ↔ b = depthByte d := by
  constructor
  · unfold depthOfByte
    intro h
    split at h
    · cases h; assumption
    · split at h
      · cases h; assumption
      · split at h
        · cases h; assumption
        · split at h
          · cases h; assumption
          · cases h
  · rintro rfl
    exact depthOfByte_depthByte d

end Sys2Proof.Machine
end

