-- ==== Sys2Proof/Laws/State.lean ====
section
/-! SUPPORT. What each named update of State leaves in each field: one lemma per field, all true by rfl. -/

namespace Sys2Proof.Machine

variable (s : State)

/-! ### finish -/

@[simp] theorem State.finish_cfg (e : ErrCode) : (s.finish e).cfg = s.cfg := rfl
@[simp] theorem State.finish_engine (e : ErrCode) : (s.finish e).engine = .idle := rfl
@[simp] theorem State.finish_ie (e : ErrCode) : (s.finish e).ie = s.ie := rfl
@[simp] theorem State.finish_done (e : ErrCode) : (s.finish e).done = true := rfl
@[simp] theorem State.finish_dstOcc (e : ErrCode) : (s.finish e).dstOcc = s.dstOcc := rfl
@[simp] theorem State.finish_err (e : ErrCode) : (s.finish e).err = e := rfl
@[simp] theorem State.finish_palValid (e : ErrCode) : (s.finish e).palValid = s.palValid := rfl
@[simp] theorem State.finish_tvalid (e : ErrCode) : (s.finish e).tvalid = s.tvalid := rfl
@[simp] theorem State.finish_cmd (e : ErrCode) : (s.finish e).cmd = s.cmd := rfl
@[simp] theorem State.finish_srcAddr (e : ErrCode) : (s.finish e).srcAddr = s.srcAddr := rfl
@[simp] theorem State.finish_srcLen (e : ErrCode) : (s.finish e).srcLen = s.srcLen := rfl
@[simp] theorem State.finish_dstAddr (e : ErrCode) : (s.finish e).dstAddr = s.dstAddr := rfl
@[simp] theorem State.finish_dstCap (e : ErrCode) : (s.finish e).dstCap = s.dstCap := rfl
@[simp] theorem State.finish_width (e : ErrCode) : (s.finish e).width = s.width := rfl
@[simp] theorem State.finish_height (e : ErrCode) : (s.finish e).height = s.height := rfl
@[simp] theorem State.finish_stride (e : ErrCode) : (s.finish e).stride = s.stride := rfl
@[simp] theorem State.finish_depth (e : ErrCode) : (s.finish e).depth = s.depth := rfl
@[simp] theorem State.finish_color (e : ErrCode) : (s.finish e).color = s.color := rfl
@[simp] theorem State.finish_resultIndex (e : ErrCode) : (s.finish e).resultIndex = s.resultIndex := rfl
@[simp] theorem State.finish_resultHit (e : ErrCode) : (s.finish e).resultHit = s.resultHit := rfl
@[simp] theorem State.finish_tidx (e : ErrCode) : (s.finish e).tidx = s.tidx := rfl
@[simp] theorem State.finish_outLen (e : ErrCode) : (s.finish e).outLen = s.outLen := rfl
@[simp] theorem State.finish_pal (e : ErrCode) : (s.finish e).pal = s.pal := rfl
@[simp] theorem State.finish_mem (e : ErrCode) : (s.finish e).mem = s.mem := rfl
@[simp] theorem State.finish_latch (e : ErrCode) : (s.finish e).latch = s.latch := rfl
@[simp] theorem State.finish_wait (e : ErrCode) : (s.finish e).wait = 0 := rfl
@[simp] theorem State.finish_latencies (e : ErrCode) : (s.finish e).latencies = s.latencies := rfl
@[simp] theorem State.finish_free (e : ErrCode) : (s.finish e).free = s.free := rfl
@[simp] theorem State.finish_script (e : ErrCode) : (s.finish e).script = s.script := rfl
@[simp] theorem State.finish_reads (e : ErrCode) : (s.finish e).reads = s.reads := rfl

/-! ### accept -/

@[simp] theorem State.accept_cfg (v : Word) : (s.accept v).cfg = s.cfg := rfl
@[simp] theorem State.accept_engine (v : Word) : (s.accept v).engine = .busy := rfl
@[simp] theorem State.accept_ie (v : Word) : (s.accept v).ie = s.ie := rfl
@[simp] theorem State.accept_done (v : Word) : (s.accept v).done = false := rfl
@[simp] theorem State.accept_dstOcc (v : Word) : (s.accept v).dstOcc = s.dstOcc := rfl
@[simp] theorem State.accept_err (v : Word) : (s.accept v).err = .none := rfl
@[simp] theorem State.accept_palValid (v : Word) : (s.accept v).palValid = s.palValid := rfl
@[simp] theorem State.accept_tvalid (v : Word) : (s.accept v).tvalid = s.tvalid := rfl
@[simp] theorem State.accept_cmd (v : Word) : (s.accept v).cmd = v := rfl
@[simp] theorem State.accept_srcAddr (v : Word) : (s.accept v).srcAddr = s.srcAddr := rfl
@[simp] theorem State.accept_srcLen (v : Word) : (s.accept v).srcLen = s.srcLen := rfl
@[simp] theorem State.accept_dstAddr (v : Word) : (s.accept v).dstAddr = s.dstAddr := rfl
@[simp] theorem State.accept_dstCap (v : Word) : (s.accept v).dstCap = s.dstCap := rfl
@[simp] theorem State.accept_width (v : Word) : (s.accept v).width = s.width := rfl
@[simp] theorem State.accept_height (v : Word) : (s.accept v).height = s.height := rfl
@[simp] theorem State.accept_stride (v : Word) : (s.accept v).stride = s.stride := rfl
@[simp] theorem State.accept_depth (v : Word) : (s.accept v).depth = s.depth := rfl
@[simp] theorem State.accept_color (v : Word) : (s.accept v).color = s.color := rfl
@[simp] theorem State.accept_resultIndex (v : Word) : (s.accept v).resultIndex = s.resultIndex := rfl
@[simp] theorem State.accept_resultHit (v : Word) : (s.accept v).resultHit = s.resultHit := rfl
@[simp] theorem State.accept_tidx (v : Word) : (s.accept v).tidx = s.tidx := rfl
@[simp] theorem State.accept_outLen (v : Word) : (s.accept v).outLen = s.outLen := rfl
@[simp] theorem State.accept_pal (v : Word) : (s.accept v).pal = s.pal := rfl
@[simp] theorem State.accept_mem (v : Word) : (s.accept v).mem = s.mem := rfl
@[simp] theorem State.accept_latch (v : Word) : (s.accept v).latch = s.operands v := rfl
@[simp] theorem State.accept_wait (v : Word) : (s.accept v).wait = s.wait := rfl
@[simp] theorem State.accept_latencies (v : Word) : (s.accept v).latencies = s.latencies := rfl
@[simp] theorem State.accept_free (v : Word) : (s.accept v).free = s.free := rfl
@[simp] theorem State.accept_script (v : Word) : (s.accept v).script = s.script := rfl
@[simp] theorem State.accept_reads (v : Word) : (s.accept v).reads = s.reads := rfl

/-! ### forgetPalette -/

@[simp] theorem State.forgetPalette_cfg : s.forgetPalette.cfg = s.cfg := rfl
@[simp] theorem State.forgetPalette_engine : s.forgetPalette.engine = s.engine := rfl
@[simp] theorem State.forgetPalette_ie : s.forgetPalette.ie = s.ie := rfl
@[simp] theorem State.forgetPalette_done : s.forgetPalette.done = s.done := rfl
@[simp] theorem State.forgetPalette_dstOcc : s.forgetPalette.dstOcc = s.dstOcc := rfl
@[simp] theorem State.forgetPalette_err : s.forgetPalette.err = s.err := rfl
@[simp] theorem State.forgetPalette_palValid : s.forgetPalette.palValid = s.palValid := rfl
@[simp] theorem State.forgetPalette_tvalid : s.forgetPalette.tvalid = s.tvalid := rfl
@[simp] theorem State.forgetPalette_cmd : s.forgetPalette.cmd = s.cmd := rfl
@[simp] theorem State.forgetPalette_srcAddr : s.forgetPalette.srcAddr = s.srcAddr := rfl
@[simp] theorem State.forgetPalette_srcLen : s.forgetPalette.srcLen = s.srcLen := rfl
@[simp] theorem State.forgetPalette_dstAddr : s.forgetPalette.dstAddr = s.dstAddr := rfl
@[simp] theorem State.forgetPalette_dstCap : s.forgetPalette.dstCap = s.dstCap := rfl
@[simp] theorem State.forgetPalette_width : s.forgetPalette.width = s.width := rfl
@[simp] theorem State.forgetPalette_height : s.forgetPalette.height = s.height := rfl
@[simp] theorem State.forgetPalette_stride : s.forgetPalette.stride = s.stride := rfl
@[simp] theorem State.forgetPalette_depth : s.forgetPalette.depth = s.depth := rfl
@[simp] theorem State.forgetPalette_color : s.forgetPalette.color = s.color := rfl
@[simp] theorem State.forgetPalette_resultIndex : s.forgetPalette.resultIndex = s.resultIndex := rfl
@[simp] theorem State.forgetPalette_resultHit : s.forgetPalette.resultHit = s.resultHit := rfl
@[simp] theorem State.forgetPalette_tidx : s.forgetPalette.tidx = s.tidx := rfl
@[simp] theorem State.forgetPalette_outLen : s.forgetPalette.outLen = s.outLen := rfl
@[simp] theorem State.forgetPalette_pal : s.forgetPalette.pal = freePalette s.free := rfl
@[simp] theorem State.forgetPalette_mem : s.forgetPalette.mem = s.mem := rfl
@[simp] theorem State.forgetPalette_latch : s.forgetPalette.latch = s.latch := rfl
@[simp] theorem State.forgetPalette_wait : s.forgetPalette.wait = s.wait := rfl
@[simp] theorem State.forgetPalette_latencies : s.forgetPalette.latencies = s.latencies := rfl
@[simp] theorem State.forgetPalette_free : s.forgetPalette.free = s.free + 1 := rfl
@[simp] theorem State.forgetPalette_script : s.forgetPalette.script = s.script := rfl
@[simp] theorem State.forgetPalette_reads : s.forgetPalette.reads = s.reads := rfl

/-! ### forgetWindow -/

@[simp] theorem State.forgetWindow_cfg (w : Window) : (s.forgetWindow w).cfg = s.cfg := rfl
@[simp] theorem State.forgetWindow_engine (w : Window) : (s.forgetWindow w).engine = s.engine := rfl
@[simp] theorem State.forgetWindow_ie (w : Window) : (s.forgetWindow w).ie = s.ie := rfl
@[simp] theorem State.forgetWindow_done (w : Window) : (s.forgetWindow w).done = s.done := rfl
@[simp] theorem State.forgetWindow_dstOcc (w : Window) : (s.forgetWindow w).dstOcc = s.dstOcc := rfl
@[simp] theorem State.forgetWindow_err (w : Window) : (s.forgetWindow w).err = s.err := rfl
@[simp] theorem State.forgetWindow_palValid (w : Window) : (s.forgetWindow w).palValid = s.palValid := rfl
@[simp] theorem State.forgetWindow_tvalid (w : Window) : (s.forgetWindow w).tvalid = s.tvalid := rfl
@[simp] theorem State.forgetWindow_cmd (w : Window) : (s.forgetWindow w).cmd = s.cmd := rfl
@[simp] theorem State.forgetWindow_srcAddr (w : Window) : (s.forgetWindow w).srcAddr = s.srcAddr := rfl
@[simp] theorem State.forgetWindow_srcLen (w : Window) : (s.forgetWindow w).srcLen = s.srcLen := rfl
@[simp] theorem State.forgetWindow_dstAddr (w : Window) : (s.forgetWindow w).dstAddr = s.dstAddr := rfl
@[simp] theorem State.forgetWindow_dstCap (w : Window) : (s.forgetWindow w).dstCap = s.dstCap := rfl
@[simp] theorem State.forgetWindow_width (w : Window) : (s.forgetWindow w).width = s.width := rfl
@[simp] theorem State.forgetWindow_height (w : Window) : (s.forgetWindow w).height = s.height := rfl
@[simp] theorem State.forgetWindow_stride (w : Window) : (s.forgetWindow w).stride = s.stride := rfl
@[simp] theorem State.forgetWindow_depth (w : Window) : (s.forgetWindow w).depth = s.depth := rfl
@[simp] theorem State.forgetWindow_color (w : Window) : (s.forgetWindow w).color = s.color := rfl
@[simp] theorem State.forgetWindow_resultIndex (w : Window) : (s.forgetWindow w).resultIndex = s.resultIndex := rfl
@[simp] theorem State.forgetWindow_resultHit (w : Window) : (s.forgetWindow w).resultHit = s.resultHit := rfl
@[simp] theorem State.forgetWindow_tidx (w : Window) : (s.forgetWindow w).tidx = s.tidx := rfl
@[simp] theorem State.forgetWindow_outLen (w : Window) : (s.forgetWindow w).outLen = s.outLen := rfl
@[simp] theorem State.forgetWindow_pal (w : Window) : (s.forgetWindow w).pal = s.pal := rfl
@[simp] theorem State.forgetWindow_mem (w : Window) : (s.forgetWindow w).mem =
    s.mem.writeBytes w.base (freeBytes s.free (min w.len (s.cfg.memSize - w.base))) := rfl
@[simp] theorem State.forgetWindow_latch (w : Window) : (s.forgetWindow w).latch = s.latch := rfl
@[simp] theorem State.forgetWindow_wait (w : Window) : (s.forgetWindow w).wait = s.wait := rfl
@[simp] theorem State.forgetWindow_latencies (w : Window) : (s.forgetWindow w).latencies = s.latencies := rfl
@[simp] theorem State.forgetWindow_free (w : Window) : (s.forgetWindow w).free = s.free + 1 := rfl
@[simp] theorem State.forgetWindow_script (w : Window) : (s.forgetWindow w).script = s.script := rfl
@[simp] theorem State.forgetWindow_reads (w : Window) : (s.forgetWindow w).reads = s.reads := rfl

/-! ### palLoadEffect -/

@[simp] theorem palLoadEffect_cfg : (palLoadEffect s).cfg = s.cfg := rfl
@[simp] theorem palLoadEffect_engine : (palLoadEffect s).engine = s.engine := rfl
@[simp] theorem palLoadEffect_ie : (palLoadEffect s).ie = s.ie := rfl
@[simp] theorem palLoadEffect_done : (palLoadEffect s).done = s.done := rfl
@[simp] theorem palLoadEffect_dstOcc : (palLoadEffect s).dstOcc = s.dstOcc := rfl
@[simp] theorem palLoadEffect_err : (palLoadEffect s).err = s.err := rfl
@[simp] theorem palLoadEffect_palValid : (palLoadEffect s).palValid = true := rfl
@[simp] theorem palLoadEffect_tvalid : (palLoadEffect s).tvalid =
    (transparentFold (palWords s.mem s.srcWindow.base) 0 (0#8, false)).2 := rfl
@[simp] theorem palLoadEffect_cmd : (palLoadEffect s).cmd = s.cmd := rfl
@[simp] theorem palLoadEffect_srcAddr : (palLoadEffect s).srcAddr = s.srcAddr := rfl
@[simp] theorem palLoadEffect_srcLen : (palLoadEffect s).srcLen = s.srcLen := rfl
@[simp] theorem palLoadEffect_dstAddr : (palLoadEffect s).dstAddr = s.dstAddr := rfl
@[simp] theorem palLoadEffect_dstCap : (palLoadEffect s).dstCap = s.dstCap := rfl
@[simp] theorem palLoadEffect_width : (palLoadEffect s).width = s.width := rfl
@[simp] theorem palLoadEffect_height : (palLoadEffect s).height = s.height := rfl
@[simp] theorem palLoadEffect_stride : (palLoadEffect s).stride = s.stride := rfl
@[simp] theorem palLoadEffect_depth : (palLoadEffect s).depth = s.depth := rfl
@[simp] theorem palLoadEffect_color : (palLoadEffect s).color = s.color := rfl
@[simp] theorem palLoadEffect_resultIndex : (palLoadEffect s).resultIndex = s.resultIndex := rfl
@[simp] theorem palLoadEffect_resultHit : (palLoadEffect s).resultHit = s.resultHit := rfl
@[simp] theorem palLoadEffect_tidx : (palLoadEffect s).tidx =
    (transparentFold (palWords s.mem s.srcWindow.base) 0 (0#8, false)).1 := rfl
@[simp] theorem palLoadEffect_outLen : (palLoadEffect s).outLen = s.outLen := rfl
@[simp] theorem palLoadEffect_pal : (palLoadEffect s).pal =
    palOf fun i => fromPacked16 (s.mem.palWord s.srcWindow.base i) := rfl
@[simp] theorem palLoadEffect_mem : (palLoadEffect s).mem = s.mem := rfl
@[simp] theorem palLoadEffect_latch : (palLoadEffect s).latch = s.latch := rfl
@[simp] theorem palLoadEffect_wait : (palLoadEffect s).wait = s.wait := rfl
@[simp] theorem palLoadEffect_latencies : (palLoadEffect s).latencies = s.latencies := rfl
@[simp] theorem palLoadEffect_free : (palLoadEffect s).free = s.free := rfl
@[simp] theorem palLoadEffect_script : (palLoadEffect s).script = s.script := rfl
@[simp] theorem palLoadEffect_reads : (palLoadEffect s).reads = s.reads := rfl

/-! ### palSaveEffect -/

@[simp] theorem palSaveEffect_cfg : (palSaveEffect s).cfg = s.cfg := rfl
@[simp] theorem palSaveEffect_engine : (palSaveEffect s).engine = s.engine := rfl
@[simp] theorem palSaveEffect_ie : (palSaveEffect s).ie = s.ie := rfl
@[simp] theorem palSaveEffect_done : (palSaveEffect s).done = s.done := rfl
@[simp] theorem palSaveEffect_dstOcc : (palSaveEffect s).dstOcc = true := rfl
@[simp] theorem palSaveEffect_err : (palSaveEffect s).err = s.err := rfl
@[simp] theorem palSaveEffect_palValid : (palSaveEffect s).palValid = s.palValid := rfl
@[simp] theorem palSaveEffect_tvalid : (palSaveEffect s).tvalid = s.tvalid := rfl
@[simp] theorem palSaveEffect_cmd : (palSaveEffect s).cmd = s.cmd := rfl
@[simp] theorem palSaveEffect_srcAddr : (palSaveEffect s).srcAddr = s.srcAddr := rfl
@[simp] theorem palSaveEffect_srcLen : (palSaveEffect s).srcLen = s.srcLen := rfl
@[simp] theorem palSaveEffect_dstAddr : (palSaveEffect s).dstAddr = s.dstAddr := rfl
@[simp] theorem palSaveEffect_dstCap : (palSaveEffect s).dstCap = s.dstCap := rfl
@[simp] theorem palSaveEffect_width : (palSaveEffect s).width = s.width := rfl
@[simp] theorem palSaveEffect_height : (palSaveEffect s).height = s.height := rfl
@[simp] theorem palSaveEffect_stride : (palSaveEffect s).stride = s.stride := rfl
@[simp] theorem palSaveEffect_depth : (palSaveEffect s).depth = s.depth := rfl
@[simp] theorem palSaveEffect_color : (palSaveEffect s).color = s.color := rfl
@[simp] theorem palSaveEffect_resultIndex : (palSaveEffect s).resultIndex = s.resultIndex := rfl
@[simp] theorem palSaveEffect_resultHit : (palSaveEffect s).resultHit = s.resultHit := rfl
@[simp] theorem palSaveEffect_tidx : (palSaveEffect s).tidx = s.tidx := rfl
@[simp] theorem palSaveEffect_outLen : (palSaveEffect s).outLen = 513 := rfl
@[simp] theorem palSaveEffect_pal : (palSaveEffect s).pal = s.pal := rfl
@[simp] theorem palSaveEffect_mem : (palSaveEffect s).mem = s.mem.writeBytes s.dstWindow.base (palImage s.pal) := rfl
@[simp] theorem palSaveEffect_latch : (palSaveEffect s).latch = s.latch := rfl
@[simp] theorem palSaveEffect_wait : (palSaveEffect s).wait = s.wait := rfl
@[simp] theorem palSaveEffect_latencies : (palSaveEffect s).latencies = s.latencies := rfl
@[simp] theorem palSaveEffect_free : (palSaveEffect s).free = s.free := rfl
@[simp] theorem palSaveEffect_script : (palSaveEffect s).script = s.script := rfl
@[simp] theorem palSaveEffect_reads : (palSaveEffect s).reads = s.reads := rfl

/-! ### palSetEffect -/

@[simp] theorem palSetEffect_cfg (t : Byte) : (palSetEffect t s).cfg = s.cfg := rfl
@[simp] theorem palSetEffect_engine (t : Byte) : (palSetEffect t s).engine = s.engine := rfl
@[simp] theorem palSetEffect_ie (t : Byte) : (palSetEffect t s).ie = s.ie := rfl
@[simp] theorem palSetEffect_done (t : Byte) : (palSetEffect t s).done = s.done := rfl
@[simp] theorem palSetEffect_dstOcc (t : Byte) : (palSetEffect t s).dstOcc = s.dstOcc := rfl
@[simp] theorem palSetEffect_err (t : Byte) : (palSetEffect t s).err = s.err := rfl
@[simp] theorem palSetEffect_palValid (t : Byte) : (palSetEffect t s).palValid = true := rfl
@[simp] theorem palSetEffect_tvalid (t : Byte) : (palSetEffect t s).tvalid = true := rfl
@[simp] theorem palSetEffect_cmd (t : Byte) : (palSetEffect t s).cmd = s.cmd := rfl
@[simp] theorem palSetEffect_srcAddr (t : Byte) : (palSetEffect t s).srcAddr = s.srcAddr := rfl
@[simp] theorem palSetEffect_srcLen (t : Byte) : (palSetEffect t s).srcLen = s.srcLen := rfl
@[simp] theorem palSetEffect_dstAddr (t : Byte) : (palSetEffect t s).dstAddr = s.dstAddr := rfl
@[simp] theorem palSetEffect_dstCap (t : Byte) : (palSetEffect t s).dstCap = s.dstCap := rfl
@[simp] theorem palSetEffect_width (t : Byte) : (palSetEffect t s).width = s.width := rfl
@[simp] theorem palSetEffect_height (t : Byte) : (palSetEffect t s).height = s.height := rfl
@[simp] theorem palSetEffect_stride (t : Byte) : (palSetEffect t s).stride = s.stride := rfl
@[simp] theorem palSetEffect_depth (t : Byte) : (palSetEffect t s).depth = s.depth := rfl
@[simp] theorem palSetEffect_color (t : Byte) : (palSetEffect t s).color = s.color := rfl
@[simp] theorem palSetEffect_resultIndex (t : Byte) : (palSetEffect t s).resultIndex = s.resultIndex := rfl
@[simp] theorem palSetEffect_resultHit (t : Byte) : (palSetEffect t s).resultHit = s.resultHit := rfl
@[simp] theorem palSetEffect_tidx (t : Byte) : (palSetEffect t s).tidx = t := rfl
@[simp] theorem palSetEffect_outLen (t : Byte) : (palSetEffect t s).outLen = s.outLen := rfl
@[simp] theorem palSetEffect_pal (t : Byte) : (palSetEffect t s).pal =
    palOf fun i => s.mem.color (s.srcWindow.base + 4 * i) := rfl
@[simp] theorem palSetEffect_mem (t : Byte) : (palSetEffect t s).mem = s.mem := rfl
@[simp] theorem palSetEffect_latch (t : Byte) : (palSetEffect t s).latch = s.latch := rfl
@[simp] theorem palSetEffect_wait (t : Byte) : (palSetEffect t s).wait = s.wait := rfl
@[simp] theorem palSetEffect_latencies (t : Byte) : (palSetEffect t s).latencies = s.latencies := rfl
@[simp] theorem palSetEffect_free (t : Byte) : (palSetEffect t s).free = s.free := rfl
@[simp] theorem palSetEffect_script (t : Byte) : (palSetEffect t s).script = s.script := rfl
@[simp] theorem palSetEffect_reads (t : Byte) : (palSetEffect t s).reads = s.reads := rfl

/-! ### palSwatchEffect -/

@[simp] theorem palSwatchEffect_cfg : (palSwatchEffect s).cfg = s.cfg := rfl
@[simp] theorem palSwatchEffect_engine : (palSwatchEffect s).engine = s.engine := rfl
@[simp] theorem palSwatchEffect_ie : (palSwatchEffect s).ie = s.ie := rfl
@[simp] theorem palSwatchEffect_done : (palSwatchEffect s).done = s.done := rfl
@[simp] theorem palSwatchEffect_dstOcc : (palSwatchEffect s).dstOcc = s.dstOcc := rfl
@[simp] theorem palSwatchEffect_err : (palSwatchEffect s).err = s.err := rfl
@[simp] theorem palSwatchEffect_palValid : (palSwatchEffect s).palValid = true := rfl
@[simp] theorem palSwatchEffect_tvalid : (palSwatchEffect s).tvalid = true := rfl
@[simp] theorem palSwatchEffect_cmd : (palSwatchEffect s).cmd = s.cmd := rfl
@[simp] theorem palSwatchEffect_srcAddr : (palSwatchEffect s).srcAddr = s.srcAddr := rfl
@[simp] theorem palSwatchEffect_srcLen : (palSwatchEffect s).srcLen = s.srcLen := rfl
@[simp] theorem palSwatchEffect_dstAddr : (palSwatchEffect s).dstAddr = s.dstAddr := rfl
@[simp] theorem palSwatchEffect_dstCap : (palSwatchEffect s).dstCap = s.dstCap := rfl
@[simp] theorem palSwatchEffect_width : (palSwatchEffect s).width = s.width := rfl
@[simp] theorem palSwatchEffect_height : (palSwatchEffect s).height = s.height := rfl
@[simp] theorem palSwatchEffect_stride : (palSwatchEffect s).stride = s.stride := rfl
@[simp] theorem palSwatchEffect_depth : (palSwatchEffect s).depth = s.depth := rfl
@[simp] theorem palSwatchEffect_color : (palSwatchEffect s).color = s.color := rfl
@[simp] theorem palSwatchEffect_resultIndex : (palSwatchEffect s).resultIndex = s.resultIndex := rfl
@[simp] theorem palSwatchEffect_resultHit : (palSwatchEffect s).resultHit = s.resultHit := rfl
@[simp] theorem palSwatchEffect_tidx : (palSwatchEffect s).tidx = 0 := rfl
@[simp] theorem palSwatchEffect_outLen : (palSwatchEffect s).outLen = s.outLen := rfl
@[simp] theorem palSwatchEffect_pal : (palSwatchEffect s).pal =
    palOf fun k =>
      if k = 0 then swatchEntry0 s.cfg.swatchIndex0Rgb
      else s.mem.color (s.srcWindow.base + swatchOffset s.latch.width.toNat k) := rfl
@[simp] theorem palSwatchEffect_mem : (palSwatchEffect s).mem = s.mem := rfl
@[simp] theorem palSwatchEffect_latch : (palSwatchEffect s).latch = s.latch := rfl
@[simp] theorem palSwatchEffect_wait : (palSwatchEffect s).wait = s.wait := rfl
@[simp] theorem palSwatchEffect_latencies : (palSwatchEffect s).latencies = s.latencies := rfl
@[simp] theorem palSwatchEffect_free : (palSwatchEffect s).free = s.free := rfl
@[simp] theorem palSwatchEffect_script : (palSwatchEffect s).script = s.script := rfl
@[simp] theorem palSwatchEffect_reads : (palSwatchEffect s).reads = s.reads := rfl

/-! ### palInvalEffect -/

@[simp] theorem palInvalEffect_cfg : (palInvalEffect s).cfg = s.cfg := rfl
@[simp] theorem palInvalEffect_engine : (palInvalEffect s).engine = s.engine := rfl
@[simp] theorem palInvalEffect_ie : (palInvalEffect s).ie = s.ie := rfl
@[simp] theorem palInvalEffect_done : (palInvalEffect s).done = s.done := rfl
@[simp] theorem palInvalEffect_dstOcc : (palInvalEffect s).dstOcc = s.dstOcc := rfl
@[simp] theorem palInvalEffect_err : (palInvalEffect s).err = s.err := rfl
@[simp] theorem palInvalEffect_palValid : (palInvalEffect s).palValid = false := rfl
@[simp] theorem palInvalEffect_tvalid : (palInvalEffect s).tvalid = false := rfl
@[simp] theorem palInvalEffect_cmd : (palInvalEffect s).cmd = s.cmd := rfl
@[simp] theorem palInvalEffect_srcAddr : (palInvalEffect s).srcAddr = s.srcAddr := rfl
@[simp] theorem palInvalEffect_srcLen : (palInvalEffect s).srcLen = s.srcLen := rfl
@[simp] theorem palInvalEffect_dstAddr : (palInvalEffect s).dstAddr = s.dstAddr := rfl
@[simp] theorem palInvalEffect_dstCap : (palInvalEffect s).dstCap = s.dstCap := rfl
@[simp] theorem palInvalEffect_width : (palInvalEffect s).width = s.width := rfl
@[simp] theorem palInvalEffect_height : (palInvalEffect s).height = s.height := rfl
@[simp] theorem palInvalEffect_stride : (palInvalEffect s).stride = s.stride := rfl
@[simp] theorem palInvalEffect_depth : (palInvalEffect s).depth = s.depth := rfl
@[simp] theorem palInvalEffect_color : (palInvalEffect s).color = s.color := rfl
@[simp] theorem palInvalEffect_resultIndex : (palInvalEffect s).resultIndex = s.resultIndex := rfl
@[simp] theorem palInvalEffect_resultHit : (palInvalEffect s).resultHit = s.resultHit := rfl
@[simp] theorem palInvalEffect_tidx : (palInvalEffect s).tidx = 0 := rfl
@[simp] theorem palInvalEffect_outLen : (palInvalEffect s).outLen = s.outLen := rfl
@[simp] theorem palInvalEffect_pal : (palInvalEffect s).pal = freePalette s.free := rfl
@[simp] theorem palInvalEffect_mem : (palInvalEffect s).mem = s.mem := rfl
@[simp] theorem palInvalEffect_latch : (palInvalEffect s).latch = s.latch := rfl
@[simp] theorem palInvalEffect_wait : (palInvalEffect s).wait = s.wait := rfl
@[simp] theorem palInvalEffect_latencies : (palInvalEffect s).latencies = s.latencies := rfl
@[simp] theorem palInvalEffect_free : (palInvalEffect s).free = s.free + 1 := rfl
@[simp] theorem palInvalEffect_script : (palInvalEffect s).script = s.script := rfl
@[simp] theorem palInvalEffect_reads : (palInvalEffect s).reads = s.reads := rfl

/-! ### lookupEffect -/

@[simp] theorem lookupEffect_cfg : (lookupEffect s).cfg = s.cfg := rfl
@[simp] theorem lookupEffect_engine : (lookupEffect s).engine = s.engine := rfl
@[simp] theorem lookupEffect_ie : (lookupEffect s).ie = s.ie := rfl
@[simp] theorem lookupEffect_done : (lookupEffect s).done = s.done := rfl
@[simp] theorem lookupEffect_dstOcc : (lookupEffect s).dstOcc = s.dstOcc := rfl
@[simp] theorem lookupEffect_err : (lookupEffect s).err = s.err := rfl
@[simp] theorem lookupEffect_palValid : (lookupEffect s).palValid = s.palValid := rfl
@[simp] theorem lookupEffect_tvalid : (lookupEffect s).tvalid = s.tvalid := rfl
@[simp] theorem lookupEffect_cmd : (lookupEffect s).cmd = s.cmd := rfl
@[simp] theorem lookupEffect_srcAddr : (lookupEffect s).srcAddr = s.srcAddr := rfl
@[simp] theorem lookupEffect_srcLen : (lookupEffect s).srcLen = s.srcLen := rfl
@[simp] theorem lookupEffect_dstAddr : (lookupEffect s).dstAddr = s.dstAddr := rfl
@[simp] theorem lookupEffect_dstCap : (lookupEffect s).dstCap = s.dstCap := rfl
@[simp] theorem lookupEffect_width : (lookupEffect s).width = s.width := rfl
@[simp] theorem lookupEffect_height : (lookupEffect s).height = s.height := rfl
@[simp] theorem lookupEffect_stride : (lookupEffect s).stride = s.stride := rfl
@[simp] theorem lookupEffect_depth : (lookupEffect s).depth = s.depth := rfl
@[simp] theorem lookupEffect_color : (lookupEffect s).color = s.color := rfl
@[simp] theorem lookupEffect_resultIndex : (lookupEffect s).resultIndex =
    (findIndex s.pal s.tidx (colorOfWord s.latch.color)).1 := rfl
@[simp] theorem lookupEffect_resultHit : (lookupEffect s).resultHit =
    (findIndex s.pal s.tidx (colorOfWord s.latch.color)).2 := rfl
@[simp] theorem lookupEffect_tidx : (lookupEffect s).tidx = s.tidx := rfl
@[simp] theorem lookupEffect_outLen : (lookupEffect s).outLen = s.outLen := rfl
@[simp] theorem lookupEffect_pal : (lookupEffect s).pal = s.pal := rfl
@[simp] theorem lookupEffect_mem : (lookupEffect s).mem = s.mem := rfl
@[simp] theorem lookupEffect_latch : (lookupEffect s).latch = s.latch := rfl
@[simp] theorem lookupEffect_wait : (lookupEffect s).wait = s.wait := rfl
@[simp] theorem lookupEffect_latencies : (lookupEffect s).latencies = s.latencies := rfl
@[simp] theorem lookupEffect_free : (lookupEffect s).free = s.free := rfl
@[simp] theorem lookupEffect_script : (lookupEffect s).script = s.script := rfl
@[simp] theorem lookupEffect_reads : (lookupEffect s).reads = s.reads := rfl

/-! ### encodeEffect -/

@[simp] theorem encodeEffect_cfg (d : Depth) : (encodeEffect d s).cfg = s.cfg := rfl
@[simp] theorem encodeEffect_engine (d : Depth) : (encodeEffect d s).engine = s.engine := rfl
@[simp] theorem encodeEffect_ie (d : Depth) : (encodeEffect d s).ie = s.ie := rfl
@[simp] theorem encodeEffect_done (d : Depth) : (encodeEffect d s).done = s.done := rfl
@[simp] theorem encodeEffect_dstOcc (d : Depth) : (encodeEffect d s).dstOcc = true := rfl
@[simp] theorem encodeEffect_err (d : Depth) : (encodeEffect d s).err = s.err := rfl
@[simp] theorem encodeEffect_palValid (d : Depth) : (encodeEffect d s).palValid = s.palValid := rfl
@[simp] theorem encodeEffect_tvalid (d : Depth) : (encodeEffect d s).tvalid = s.tvalid := rfl
@[simp] theorem encodeEffect_cmd (d : Depth) : (encodeEffect d s).cmd = s.cmd := rfl
@[simp] theorem encodeEffect_srcAddr (d : Depth) : (encodeEffect d s).srcAddr = s.srcAddr := rfl
@[simp] theorem encodeEffect_srcLen (d : Depth) : (encodeEffect d s).srcLen = s.srcLen := rfl
@[simp] theorem encodeEffect_dstAddr (d : Depth) : (encodeEffect d s).dstAddr = s.dstAddr := rfl
@[simp] theorem encodeEffect_dstCap (d : Depth) : (encodeEffect d s).dstCap = s.dstCap := rfl
@[simp] theorem encodeEffect_width (d : Depth) : (encodeEffect d s).width = s.width := rfl
@[simp] theorem encodeEffect_height (d : Depth) : (encodeEffect d s).height = s.height := rfl
@[simp] theorem encodeEffect_stride (d : Depth) : (encodeEffect d s).stride = s.latch.width := rfl
@[simp] theorem encodeEffect_depth (d : Depth) : (encodeEffect d s).depth = depthByte d := rfl
@[simp] theorem encodeEffect_color (d : Depth) : (encodeEffect d s).color = s.color := rfl
@[simp] theorem encodeEffect_resultIndex (d : Depth) : (encodeEffect d s).resultIndex = s.resultIndex := rfl
@[simp] theorem encodeEffect_resultHit (d : Depth) : (encodeEffect d s).resultHit = s.resultHit := rfl
@[simp] theorem encodeEffect_tidx (d : Depth) : (encodeEffect d s).tidx = s.tidx := rfl
@[simp] theorem encodeEffect_outLen (d : Depth) : (encodeEffect d s).outLen =
    BitVec.ofNat 32 (cv2Size d s.latch.width.toNat s.latch.height.toNat) := rfl
@[simp] theorem encodeEffect_pal (d : Depth) : (encodeEffect d s).pal = s.pal := rfl
@[simp] theorem encodeEffect_mem (d : Depth) : (encodeEffect d s).mem =
    s.mem.writeBytes s.dstWindow.base (encodeImage d s) := rfl
@[simp] theorem encodeEffect_latch (d : Depth) : (encodeEffect d s).latch = s.latch := rfl
@[simp] theorem encodeEffect_wait (d : Depth) : (encodeEffect d s).wait = s.wait := rfl
@[simp] theorem encodeEffect_latencies (d : Depth) : (encodeEffect d s).latencies = s.latencies := rfl
@[simp] theorem encodeEffect_free (d : Depth) : (encodeEffect d s).free = s.free := rfl
@[simp] theorem encodeEffect_script (d : Depth) : (encodeEffect d s).script = s.script := rfl
@[simp] theorem encodeEffect_reads (d : Depth) : (encodeEffect d s).reads = s.reads := rfl

/-! ### decodeWrites -/

@[simp] theorem decodeWrites_cfg (d : Depth) : (decodeWrites d s).cfg = s.cfg := rfl
@[simp] theorem decodeWrites_engine (d : Depth) : (decodeWrites d s).engine = s.engine := rfl
@[simp] theorem decodeWrites_ie (d : Depth) : (decodeWrites d s).ie = s.ie := rfl
@[simp] theorem decodeWrites_done (d : Depth) : (decodeWrites d s).done = s.done := rfl
@[simp] theorem decodeWrites_dstOcc (d : Depth) : (decodeWrites d s).dstOcc = true := rfl
@[simp] theorem decodeWrites_err (d : Depth) : (decodeWrites d s).err = s.err := rfl
@[simp] theorem decodeWrites_palValid (d : Depth) : (decodeWrites d s).palValid = s.palValid := rfl
@[simp] theorem decodeWrites_tvalid (d : Depth) : (decodeWrites d s).tvalid = s.tvalid := rfl
@[simp] theorem decodeWrites_cmd (d : Depth) : (decodeWrites d s).cmd = s.cmd := rfl
@[simp] theorem decodeWrites_srcAddr (d : Depth) : (decodeWrites d s).srcAddr = s.srcAddr := rfl
@[simp] theorem decodeWrites_srcLen (d : Depth) : (decodeWrites d s).srcLen = s.srcLen := rfl
@[simp] theorem decodeWrites_dstAddr (d : Depth) : (decodeWrites d s).dstAddr = s.dstAddr := rfl
@[simp] theorem decodeWrites_dstCap (d : Depth) : (decodeWrites d s).dstCap = s.dstCap := rfl
@[simp] theorem decodeWrites_width (d : Depth) : (decodeWrites d s).width = headerWidth s := rfl
@[simp] theorem decodeWrites_height (d : Depth) : (decodeWrites d s).height = headerHeight s := rfl
@[simp] theorem decodeWrites_stride (d : Depth) : (decodeWrites d s).stride = headerStride s := rfl
@[simp] theorem decodeWrites_depth (d : Depth) : (decodeWrites d s).depth = depthByte d := rfl
@[simp] theorem decodeWrites_color (d : Depth) : (decodeWrites d s).color = s.color := rfl
@[simp] theorem decodeWrites_resultIndex (d : Depth) : (decodeWrites d s).resultIndex = s.resultIndex := rfl
@[simp] theorem decodeWrites_resultHit (d : Depth) : (decodeWrites d s).resultHit = s.resultHit := rfl
@[simp] theorem decodeWrites_tidx (d : Depth) : (decodeWrites d s).tidx = s.tidx := rfl
@[simp] theorem decodeWrites_outLen (d : Depth) : (decodeWrites d s).outLen =
    BitVec.ofNat 32 ((headerWidth s).toNat * (headerHeight s).toNat * 4) := rfl
@[simp] theorem decodeWrites_pal (d : Depth) : (decodeWrites d s).pal = s.pal := rfl
@[simp] theorem decodeWrites_mem (d : Depth) : (decodeWrites d s).mem =
    s.mem.writeBytes s.dstWindow.base (decodeImage d s) := rfl
@[simp] theorem decodeWrites_latch (d : Depth) : (decodeWrites d s).latch = s.latch := rfl
@[simp] theorem decodeWrites_wait (d : Depth) : (decodeWrites d s).wait = s.wait := rfl
@[simp] theorem decodeWrites_latencies (d : Depth) : (decodeWrites d s).latencies = s.latencies := rfl
@[simp] theorem decodeWrites_free (d : Depth) : (decodeWrites d s).free = s.free := rfl
@[simp] theorem decodeWrites_script (d : Depth) : (decodeWrites d s).script = s.script := rfl
@[simp] theorem decodeWrites_reads (d : Depth) : (decodeWrites d s).reads = s.reads := rfl

/-! ### What the effects leave of the windows: each reads the latched operands only -/

@[simp] theorem State.finish_srcWindow (e : ErrCode) : (s.finish e).srcWindow = s.srcWindow := rfl
@[simp] theorem State.finish_dstWindow (e : ErrCode) : (s.finish e).dstWindow = s.dstWindow := rfl
@[simp] theorem State.srcWindow_base : s.srcWindow.base = s.latch.srcAddr.toNat := rfl
@[simp] theorem State.srcWindow_len : s.srcWindow.len = s.latch.srcLen.toNat := rfl
@[simp] theorem State.dstWindow_base : s.dstWindow.base = s.latch.dstAddr.toNat := rfl
@[simp] theorem State.dstWindow_len : s.dstWindow.len = s.latch.dstCap.toNat := rfl

end Sys2Proof.Machine
end

