-- ==== Sys2Proof/Laws/Commands.lean ====
section
/-! SUPPORT. What running a command can do, said once: every command is its list of checks and its effect, it ends with the
first error that applies or with its effect, and the checks pass exactly under the conditions of R99, R227 and R265. -/

namespace Sys2Proof.Machine

/-! ### The first error -/

@[simp] theorem firstError_nil : firstError [] = none := rfl

@[simp] theorem firstError_cons (c : Check) (l : List Check) :
    firstError (c :: l) = if c.1 then some c.2 else firstError l := rfl

theorem firstError_append (l l' : List Check) :
    firstError (l ++ l') = match firstError l with
      | some e => some e
      | none => firstError l' := by
  induction l with
  | nil => rfl
  | cons c l ih =>
    rw [List.cons_append, firstError_cons, firstError_cons]
    split
    · rfl
    · exact ih

/-- One check of a list, with its condition as a proposition. -/
theorem firstError_step {b : Bool} {p : Prop} [Decidable p] {e : ErrCode} {l : List Check} {r : Option ErrCode}
    (h : b = true ↔ p) (hr : firstError l = r) : firstError ((b, e) :: l) = if p then some e else r := by
  rw [firstError_cons, hr]
  simp only [h]

/-- No error applies exactly when every check passes. -/
theorem firstError_eq_none {l : List Check} : firstError l = none ↔ ∀ c ∈ l, c.1 = false := by
  induction l with
  | nil => simp
  | cons c l ih =>
    rw [firstError_cons]
    cases h : c.1 <;> simp [h, ih]

/-- The reported error is one of the list, and it applies. -/
theorem firstError_mem {l : List Check} {e : ErrCode} (h : firstError l = some e) : (true, e) ∈ l := by
  induction l with
  | nil => cases h
  | cons c l ih =>
    rw [firstError_cons] at h
    split at h
    · rename_i hc
      cases h
      exact List.mem_cons.mpr (.inl (Prod.ext hc.symm rfl))
    · exact List.mem_cons_of_mem _ (ih h)

theorem runCommand_of_some {l : List Check} {f : State → State} {s : State} {e : ErrCode}
    (h : firstError l = some e) : runCommand l f s = .next (s.finish e) := by
  simp only [runCommand, h]

theorem runCommand_of_none {l : List Check} {f : State → State} {s : State} (h : firstError l = none) :
    runCommand l f s = .next ((f s).finish .none) := by
  simp only [runCommand, h]

/-- Everything a command can do. -/
theorem runCommand_cases (l : List Check) (f : State → State) (s : State) :
    (∃ e, firstError l = some e ∧ runCommand l f s = .next (s.finish e)) ∨
    (firstError l = none ∧ runCommand l f s = .next ((f s).finish .none)) := by
  cases h : firstError l with
  | some e => exact .inl ⟨e, rfl, runCommand_of_some h⟩
  | none => exact .inr ⟨rfl, runCommand_of_none h⟩

/-! ### Every command -/

/-- A command's own checks, after the common ones (R304 step 4). -/
def ownChecks : Instr → State → List Check
  | .palLoad => palLoadChecks
  | .palSave => palSaveChecks
  | .palSet _ => palSetChecks
  | .palSwatch => palSwatchChecks
  | .palInval => fun _ => []
  | .lookup => lookupChecks
  | .cv2Enc8 => encodeChecks .d8
  | .cv2Enc16 => encodeChecks .d16
  | .cv2Enc24 => encodeChecks .d24
  | .cv2Enc32 => encodeChecks .d32
  | .cv2Dec => decodeChecks

/-- A command's writes on success (R303). -/
def effectOf : Instr → State → State
  | .palLoad => palLoadEffect
  | .palSave => palSaveEffect
  | .palSet t => palSetEffect t
  | .palSwatch => palSwatchEffect
  | .palInval => palInvalEffect
  | .lookup => lookupEffect
  | .cv2Enc8 => encodeEffect .d8
  | .cv2Enc16 => encodeEffect .d16
  | .cv2Enc24 => encodeEffect .d24
  | .cv2Enc32 => encodeEffect .d32
  | .cv2Dec => decodeEffect

/-- Every command runs its checks in the order of R304 and then its effect. -/
theorem exec_eq (i : Instr) (s : State) :
    exec i s = runCommand (commonChecks i s ++ ownChecks i s) (effectOf i) s := by
  cases i <;> rfl

theorem exec_cases (i : Instr) (s : State) :
    (∃ e, firstError (commonChecks i s ++ ownChecks i s) = some e ∧ exec i s = .next (s.finish e)) ∨
    (firstError (commonChecks i s ++ ownChecks i s) = none ∧ exec i s = .next ((effectOf i s).finish .none)) := by
  rw [exec_eq]
  exact runCommand_cases _ _ _

theorem effectOf_script (i : Instr) (s : State) : (effectOf i s).script = s.script := by
  cases i
  case cv2Dec => simp only [effectOf, decodeEffect]; split <;> rfl
  all_goals rfl

theorem effectOf_dstOcc {i : Instr} {s : State} (h : s.dstOcc = true) : (effectOf i s).dstOcc = true := by
  cases i
  case cv2Dec => simp only [effectOf, decodeEffect]; split <;> first | rfl | exact h
  all_goals first | rfl | exact h

/-- No command changes the host's script. -/
theorem exec_script {i : Instr} {s t : State} (h : exec i s = .next t) : t.script = s.script := by
  rcases exec_cases i s with ⟨e, _, h'⟩ | ⟨_, h'⟩ <;> rw [h] at h' <;> cases h'
  · rfl
  · exact effectOf_script i s

/-- No command releases an occupied destination (R36). -/
theorem exec_dstOcc {i : Instr} {s t : State} (h : exec i s = .next t) (ho : s.dstOcc = true) : t.dstOcc = true := by
  rcases exec_cases i s with ⟨e, _, h'⟩ | ⟨_, h'⟩ <;> rw [h] at h' <;> cases h'
  · exact ho
  · exact effectOf_dstOcc ho

/-! ### The common checks -/

@[simp] theorem Window.outside_eq_true {w : Window} {n : Nat} : w.outside n = true ↔ n < w.base + w.len := by
  simp [Window.outside]

@[simp] theorem Window.outside_eq_false {w : Window} {n : Nat} : w.outside n = false ↔ w.base + w.len ≤ n := by
  simp [Window.outside]

theorem Window.overlaps_eq_true {w v : Window} :
    w.overlaps v = true ↔ 0 < w.len ∧ 0 < v.len ∧ w.base < v.base + v.len ∧ v.base < w.base + w.len := by
  simp [Window.overlaps, and_assoc]

theorem srcOutside_iff {s : State} : s.srcWindow.outside s.cfg.memSize = true ↔ ¬ SrcInside s := by
  simp [SrcInside]

theorem dstOutside_iff {s : State} : s.dstWindow.outside s.cfg.memSize = true ↔ ¬ DstInside s := by
  simp [DstInside]

theorem windowsOverlap_iff {s : State} : s.srcWindow.overlaps s.dstWindow = true ↔ WindowsOverlap s := by
  rw [Window.overlaps_eq_true]; rfl

/-- ALREADY_EXISTS comes first (R304 step 2, R305). -/
theorem commonChecks_alreadyExists {i : Instr} {s : State} (hu : usesDst i = true) (ho : s.dstOcc = true) :
    firstError (commonChecks i s) = some .alreadyExists := by
  simp [commonChecks, hu, ho]

/-- Then RANGE, if a window the command uses is not legal (R304 step 3, R99). -/
theorem commonChecks_range {i : Instr} {s : State} (ho : usesDst i = false ∨ s.dstOcc = false)
    (hr : RangeFails i s) : firstError (commonChecks i s) = some .range := by
  have h0 : (usesDst i && s.dstOcc) = false := by rcases ho with h | h <;> simp [h]
  have hsrc := @srcOutside_iff s
  have hdst := @dstOutside_iff s
  have hov := @windowsOverlap_iff s
  simp only [commonChecks, firstError_cons, h0, Bool.false_eq_true, if_false, firstError_nil]
  rcases hr with ⟨h1, h2⟩ | ⟨h1, h2⟩ | ⟨h1, h2, h3⟩
  · rw [h1, hsrc.mpr h2]; rfl
  · rw [h1, hdst.mpr h2]
    split <;> rfl
  · rw [h1, h2, hov.mpr h3]
    split
    · rfl
    · split <;> rfl

/-- The common checks pass exactly when neither applies. -/
theorem commonChecks_none {i : Instr} {s : State} :
    firstError (commonChecks i s) = none ↔ (usesDst i = false ∨ s.dstOcc = false) ∧ ¬ RangeFails i s := by
  constructor
  · intro h
    refine ⟨?_, fun hr => ?_⟩
    · by_contra hc
      simp only [not_or, Bool.not_eq_false] at hc
      rw [commonChecks_alreadyExists hc.1 hc.2] at h
      cases h
    · by_cases hc : usesDst i = false ∨ s.dstOcc = false
      · rw [commonChecks_range hc hr] at h
        cases h
      · simp only [not_or, Bool.not_eq_false] at hc
        rw [commonChecks_alreadyExists hc.1 hc.2] at h
        cases h
  · rintro ⟨ho, hr⟩
    have h0 : (usesDst i && s.dstOcc) = false := by rcases ho with h | h <;> simp [h]
    simp only [RangeFails, not_or, ← srcOutside_iff, ← dstOutside_iff, ← windowsOverlap_iff] at hr
    rw [firstError_eq_none]
    simp only [commonChecks, List.mem_cons, List.not_mem_nil, or_false, forall_eq_or_imp, forall_eq, h0,
      Bool.eq_false_iff, Bool.and_eq_true, ne_eq, true_and, and_assoc, Bool.false_eq_true, not_false_eq_true]
    exact hr

/-- With the common checks passed, the command's own checks decide. -/
theorem exec_of_common {i : Instr} {s : State} (ho : usesDst i = false ∨ s.dstOcc = false) (hr : ¬ RangeFails i s) :
    exec i s = runCommand (ownChecks i s) (effectOf i) s := by
  rw [exec_eq, runCommand, runCommand, firstError_append, commonChecks_none.mpr ⟨ho, hr⟩]

theorem exec_of_checks {i : Instr} {s : State} (ho : usesDst i = false ∨ s.dstOcc = false) (hr : ¬ RangeFails i s)
    (h : firstError (ownChecks i s) = none) : exec i s = .next ((effectOf i s).finish .none) := by
  rw [exec_of_common ho hr, runCommand_of_none h]

/-! ### The own checks of CV2_ENC.n and CV2_DEC -/

/-- The checks of R227 in their order. -/
theorem firstError_encodeChecks (d : Depth) (s : State) :
    firstError (encodeChecks d s) =
      if d = .d8 ∧ s.palValid = false then some .missingPalette
      else if s32 s.latch.width < 1 ∨ s32 s.latch.height < 1 then some .format
      else if s.latch.srcLen.toNat < s.latch.width.toNat * s.latch.height.toNat * 4 then some .format
      else if s.latch.dstCap.toNat < cv2Size d s.latch.width.toNat s.latch.height.toNat then some .capacity
      else none := by
  exact firstError_step (by simp) (firstError_step decide_eq_true_iff (firstError_step decide_eq_true_iff
    (firstError_step decide_eq_true_iff rfl)))

/-- The checks of R265 in their order. -/
theorem firstError_decodeChecks (s : State) :
    firstError (decodeChecks s) =
      if s.latch.srcLen.toNat < 17 then some .format
      else match headerDepth s with
        | none => some .unsupportedFormat
        | some d =>
          if d = .d8 ∧ s.palValid = false then some .missingPalette
          else if s32 (headerWidth s) < 1 ∨ s32 (headerHeight s) < 1 ∨ s32 (headerStride s) < s32 (headerWidth s) then
            some .format
          else if s.latch.srcLen.toNat - 17 < (headerHeight s).toNat * (headerStride s).toNat * psize d then some .format
          else if s.latch.dstCap.toNat < (headerWidth s).toNat * (headerHeight s).toNat * 4 then some .capacity
          else none := by
  refine firstError_step decide_eq_true_iff ?_
  cases headerDepth s with
  | none => rfl
  | some d =>
    exact firstError_step (by simp) (firstError_step decide_eq_true_iff (firstError_step decide_eq_true_iff
    (firstError_step decide_eq_true_iff rfl)))

theorem usesSrc_of_encodeDepth {i : Instr} {d : Depth} (h : encodeDepth i = some d) :
    usesSrc i = true ∧ usesDst i = true := by
  cases i <;> first | exact ⟨rfl, rfl⟩ | cases h

theorem own_of_encodeDepth {i : Instr} {d : Depth} (h : encodeDepth i = some d) :
    ownChecks i = encodeChecks d ∧ effectOf i = encodeEffect d := by
  cases i <;> first | (cases h; exact ⟨rfl, rfl⟩) | cases h

/-- A CV2_ENC.n that no check stops completes with its effect. -/
theorem exec_encode_of_ready {i : Instr} {d : Depth} {s : State} (hi : encodeDepth i = some d)
    (h : EncodeReady d s) : exec i s = .next ((encodeEffect d s).finish .none) := by
  obtain ⟨ho, hs, hd, hv, hp, hw, hh, hsl, hc⟩ := h
  obtain ⟨h1, h2⟩ := own_of_encodeDepth hi
  rw [← h2]
  refine exec_of_checks (.inr ho) ?_ ?_
  · rintro (⟨_, h⟩ | ⟨_, h⟩ | ⟨_, _, h⟩)
    · exact h hs
    · exact h hd
    · exact hv h
  · rw [h1, firstError_encodeChecks, if_neg, if_neg, if_neg, if_neg]
    · unfold cv2Size; omega
    · omega
    · omega
    · rintro ⟨hd8, hpv⟩
      rw [hp hd8] at hpv
      cases hpv

theorem headerDepth_eq_some {s : State} {d : Depth} :
    headerDepth s = some d ↔ s.mem.read s.latch.srcAddr.toNat = depthByte d :=
  depthOfByte_eq_some

/-- A CV2_DEC that no check stops completes with its writes. -/
theorem exec_decode_of_ready {d : Depth} {s : State} (h : DecodeReady d s) :
    exec .cv2Dec s = .next ((decodeWrites d s).finish .none) := by
  obtain ⟨ho, hs, hd, hv, h17, hb, hp, hw, hh, hst, hbody, hc⟩ := h
  have hdep : headerDepth s = some d := headerDepth_eq_some.mpr hb
  have he : effectOf .cv2Dec s = decodeWrites d s := by
    simp only [effectOf, decodeEffect, hdep]
  rw [← he]
  refine exec_of_checks (.inr ho) ?_ ?_
  · rintro (⟨_, h⟩ | ⟨_, h⟩ | ⟨_, _, h⟩)
    · exact h hs
    · exact h hd
    · exact hv h
  · show firstError (decodeChecks s) = none
    rw [firstError_decodeChecks, if_neg (by omega), hdep]
    simp only
    rw [if_neg, if_neg, if_neg, if_neg]
    · omega
    · omega
    · omega
    · rintro ⟨hd8, hpv⟩
      rw [hp hd8] at hpv
      cases hpv

/-- Conversely, a CV2_DEC whose checks all pass has a legal depth and is ready. -/
theorem decodeReady_of_checks {s : State} (h : firstError (commonChecks .cv2Dec s ++ ownChecks .cv2Dec s) = none) :
    ∃ d, DecodeReady d s := by
  rw [firstError_append] at h
  split at h
  · cases h
  · rename_i hc
    obtain ⟨ho, hr⟩ := commonChecks_none.mp hc
    simp only [RangeFails, usesSrc, usesDst, true_and, not_or, not_not] at hr
    change firstError (decodeChecks s) = none at h
    rw [firstError_decodeChecks] at h
    split at h
    · cases h
    · split at h
      · cases h
      · rename_i d hd
        refine ⟨d, ?_⟩
        split at h
        · cases h
        · split at h
          · cases h
          · split at h
            · cases h
            · split at h
              · cases h
              · rename_i hpal hdim hbody hcap
                refine ⟨by simpa [usesDst] using ho, hr.1, hr.2.1, hr.2.2, by omega, headerDepth_eq_some.mp hd, ?_,
                  by omega, by omega, by omega, by omega, by omega⟩
                intro hd8
                cases hpv : s.palValid
                · exact absurd ⟨hd8, hpv⟩ hpal
                · rfl

/-- Conversely, a CV2_ENC.n whose checks all pass is ready. -/
theorem encodeReady_of_checks {i : Instr} {d : Depth} {s : State} (hi : encodeDepth i = some d)
    (h : firstError (commonChecks i s ++ ownChecks i s) = none) : EncodeReady d s := by
  obtain ⟨hs, hd⟩ := usesSrc_of_encodeDepth hi
  rw [firstError_append] at h
  split at h
  · cases h
  · rename_i hc
    obtain ⟨ho, hr⟩ := commonChecks_none.mp hc
    simp only [RangeFails, hs, hd, true_and, not_or, not_not] at hr
    rw [(own_of_encodeDepth hi).1, firstError_encodeChecks] at h
    split at h
    · cases h
    · split at h
      · cases h
      · split at h
        · cases h
        · split at h
          · cases h
          · rename_i hpal hdim hsl hcap
            unfold cv2Size at hcap
            refine ⟨by simpa [hd] using ho, hr.1, hr.2.1, hr.2.2, ?_, by omega, by omega, by omega, by omega⟩
            intro hd8
            cases hpv : s.palValid
            · exact absurd ⟨hd8, hpv⟩ hpal
            · rfl

end Sys2Proof.Machine
end

