-- ==== Sys2Proof/Laws/Encoding.lean ====
section
/-! SUPPORT. A command word is its five fields (30_encoding.md R120), and what the fields of an encoded word are. -/

namespace Sys2Proof

/-- Two words with the same OP, DSEL, T and reserved bits are equal. -/
theorem word_eq_of_fields {v w : Word} (h0 : v.extractLsb' 0 4 = w.extractLsb' 0 4)
    (h1 : v.extractLsb' 4 2 = w.extractLsb' 4 2)
   (h2 : v.extractLsb' 6 2 = w.extractLsb' 6 2) (h3 : v.extractLsb' 8 8 = w.extractLsb' 8 8)
       (h4 : v.extractLsb' 16 16 = w.extractLsb' 16 16) : v = w := by
  apply BitVec.eq_of_toNat_eq
  have e0 := congrArg BitVec.toNat h0
  have e1 := congrArg BitVec.toNat h1
  have e2 := congrArg BitVec.toNat h2
  have e3 := congrArg BitVec.toNat h3
  have e4 := congrArg BitVec.toNat h4
  simp only [BitVec.extractLsb'_toNat, Nat.shiftRight_eq_div_pow] at e0 e1 e2 e3 e4
  have := v.isLt; have := w.isLt
  omega

/-- The fields of a word laid out by `cmdw`. -/
theorem cmdw_fields (op : BitVec 4) (d : BitVec 2) (t : Byte) :
   (cmdw op d t).extractLsb' 0 4 = op ∧ (cmdw op d t).extractLsb' 4 2 = d ∧ (cmdw op d t).extractLsb' 6 2 = 0#2 ∧
   (cmdw op d t).extractLsb' 8 8 = t ∧ (cmdw op d t).extractLsb' 16 16 = 0#16 := by
  have hn : (cmdw op d t).toNat = t.toNat * 256 + d.toNat * 16 + op.toNat := by
    unfold cmdw
    simp only [BitVec.toNat_append, BitVec.toNat_ofNat, Nat.shiftLeft_eq]
    have := op.isLt; have := d.isLt; have := t.isLt
    rw [← Nat.shiftLeft_eq, ← Nat.shiftLeft_eq, ← Nat.shiftLeft_eq, ← Nat.shiftLeft_eq]
    rw [← Nat.shiftLeft_add_eq_or_of_lt (by omega), ← Nat.shiftLeft_add_eq_or_of_lt (by omega),
        ← Nat.shiftLeft_add_eq_or_of_lt (by omega), ← Nat.shiftLeft_add_eq_or_of_lt (by omega)]
    simp only [Nat.shiftLeft_eq]; omega
  have := op.isLt; have := d.isLt; have := t.isLt
  refine ⟨?_,?_,?_,?_,?_⟩ <;> apply BitVec.eq_of_toNat_eq <;> simp only [BitVec.extractLsb'_toNat,
      Nat.shiftRight_eq_div_pow, hn, BitVec.toNat_ofNat] <;> omega

/-- The reserved field is 0 exactly when bits 31:16 and 7:6 are. -/
theorem reservedField_eq_zero_iff (v : Word) : reservedField v = 0 ↔ v.extractLsb' 16 16 = 0#16 ∧
    v.extractLsb' 6 2 = 0#2 := by
  unfold reservedField
  constructor
  · intro h
    have e := congrArg BitVec.toNat h
    rw [BitVec.toNat_append, ← Nat.shiftLeft_add_eq_or_of_lt (BitVec.isLt _), Nat.shiftLeft_eq] at e
    change _ = 0 at e
    constructor <;> apply BitVec.eq_of_toNat_eq <;> change _ = 0 <;> omega
  · rintro ⟨h, h'⟩; rw [h, h']; decide

/-- A word laid out by `cmdw` passes the test of the reserved bits. -/
theorem decode_cmdw (op : BitVec 4) (d : BitVec 2) (t : Byte) : decode (cmdw op d t) = decodeOp (cmdw op d t) := by
  obtain ⟨h0,h1,h2,h3,h4⟩ := cmdw_fields op d t
  have : reservedField (cmdw op d t) = 0 := (reservedField_eq_zero_iff _).mpr ⟨h4,h2⟩
  unfold decode
  rw [if_neg]; simpa using this

end Sys2Proof
end

