-- ==== Sys2Proof/Laws/Failing.lean ====
section
/-! SUPPORT. How a command fails: which errors the common checks and a command's own checks raise (R304), and how `FailsWith`
follows from them. -/

namespace Sys2Proof.Machine

theorem failsWith_of_checks {i s e} (h : firstError (commonChecks i s ++ ownChecks i s) =
    some e) : FailsWith i s e := by
  unfold FailsWith; rw [exec_eq, runCommand_of_some h]; rfl

theorem failsWith_of_common {i s e} (h : firstError (commonChecks i s) = some e) : FailsWith i s e := by
  apply failsWith_of_checks; rw [firstError_append, h]

theorem failsWith_of_own {i s e} (hc : CommonPass i s) (h : firstError
    (ownChecks i s) = some e) : FailsWith i s e := by
  apply failsWith_of_checks; rw [firstError_append, commonChecks_none.mpr hc, h]

/-- No check applies exactly when the common checks and the command's own checks pass. -/
theorem checks_pass {i s} (h : firstError (commonChecks i s ++ ownChecks i s) = none) : CommonPass i s ∧
    firstError (ownChecks i s) = none := by
  rw [firstError_append] at h
  split at h
  · cases h
  · rename_i hc; exact ⟨commonChecks_none.mp hc, h⟩

theorem commonPass_of_srcInside {i s} (hd : usesDst i = false) (hs : SrcInside s) : CommonPass i s :=
  ⟨.inl hd, by rintro (⟨_, h⟩ | ⟨h, _⟩ | ⟨_, h, _⟩); exact h hs; rw [hd] at h; cases h; rw [hd] at h; cases h⟩

/-- A command's own checks never raise ALREADY_EXISTS or RANGE. -/
theorem ownChecks_mem {i s} {c} (h : c ∈ ownChecks i s) : c.2 ≠ .alreadyExists ∧ c.2 ≠ .range ∧ c.2 ≠ .none := by
  cases i <;> simp [ownChecks, palLoadChecks, palSaveChecks, palSetChecks, palSwatchChecks, lookupChecks,
      encodeChecks, decodeChecks] at h
  case cv2Dec =>
    rcases h with rfl | h
    · simp
    · split at h
      · simp at h; subst h; simp
      · simp at h; rcases h with rfl|rfl|rfl|rfl <;> simp
  all_goals (first | (subst h; simp) | (rcases h with rfl|rfl <;> simp) | (rcases h with rfl|rfl|rfl|rfl <;> simp))

/-- The common checks raise nothing else. -/
theorem commonChecks_mem {i s} {c} (h : c ∈ commonChecks i s) : c.2 = .alreadyExists ∨ c.2 = .range := by
  simp [commonChecks] at h; rcases h with rfl|rfl|rfl|rfl <;> simp

theorem firstError_ne_none {i s e} (h : firstError (commonChecks i s ++ ownChecks i s) = some e) : e ≠ .none := by
  have := firstError_mem h
  rcases List.mem_append.mp this with h | h
  · rcases commonChecks_mem h with h | h <;> simp at h <;> simp [h]
  · exact (ownChecks_mem h).2.2

end Sys2Proof.Machine
end

