-- ==== Sys2Proof/Laws/Step.lean ====
section
/-! SUPPORT. Everything one step can do: the engine's turn, or one statement of the host. -/

namespace Sys2Proof.Machine

/-- The state the host's statement runs in: its script goes on, and one host turn of latency is used up. -/
def State.hostTurn (s : State) (rest : List HostOp) : State := { s with script := rest, wait := s.wait - 1 }

theorem State.isBusy_iff {s : State} : s.isBusy = true ↔ s.engine = .busy := by
  simp [State.isBusy]

theorem State.isBusy_eq_false {s : State} : s.isBusy = false ↔ s.engine = .idle := by
  unfold State.isBusy
  cases s.engine <;> simp

theorem State.engineTurn_iff {s : State} :
    s.engineTurn = true ↔ s.engine = .busy ∧ (s.wait = 0 ∨ s.script = []) := by
  simp [State.engineTurn, State.isBusy]

theorem State.engineTurn_of_idle {s : State} (h : s.engine = .idle) : s.engineTurn = false := by
  rw [State.engineTurn, State.isBusy_eq_false.mpr h, Bool.false_and]

theorem State.engineTurn_of_wait {s : State} (h : 0 < s.wait) (hs : s.script ≠ []) : s.engineTurn = false := by
  rw [← Bool.not_eq_true, State.engineTurn_iff]
  rintro ⟨_, h0 | h0⟩
  · omega
  · exact hs h0

theorem step_engine {s : State} (h : s.engineTurn = true) : step s = engineStep s := by
  rw [step, if_pos h]

theorem step_host {s : State} (h : s.engineTurn = false) : step s = hostStep s := by
  rw [step, h]; rfl

theorem engineStep_ok {s : State} {i : Instr} (h : decode s.latch.cmd = .ok i) : engineStep s = exec i s := by
  rw [engineStep, h]

theorem engineStep_error {s : State} {r : Reject} (h : decode s.latch.cmd = .error r) :
    engineStep s = .next (s.finish .illegalCmd) := by
  rw [engineStep, h]

/-- The engine's turn always answers a next state: there is no trap (R312). -/
theorem engineStep_next (s : State) : ∃ t, engineStep s = .next t := by
  cases hd : decode s.latch.cmd with
  | ok i =>
    rw [engineStep_ok hd]
    rcases exec_cases i s with ⟨e, _, h⟩ | ⟨_, h⟩ <;> exact ⟨_, h⟩
  | error r => exact ⟨_, engineStep_error hd⟩

theorem hostStep_cons {s : State} {op : HostOp} {rest : List HostOp} (h : s.script = op :: rest) :
    hostStep s = hostPerform (s.hostTurn rest) op := by
  rw [hostStep, h]; rfl

theorem step_host_cons {s : State} {op : HostOp} {rest : List HostOp} (ht : s.engineTurn = false)
    (h : s.script = op :: rest) : step s = hostPerform (s.hostTurn rest) op := by
  rw [step_host ht, hostStep_cons h]

/-- Everything a host statement can do where it answers a next state. -/
theorem hostPerform_cases {s t : State} {op : HostOp} (h : hostPerform s op = .next t) :
    (∃ w off v, op = .regWrite w off v ∧ accessWellFormed w off = true ∧ t = s.writeOffset off v) ∨
    (∃ w off, op = .regRead w off ∧ accessWellFormed w off = true ∧
      t = { s with reads := .word (s.readOffset off) :: s.reads }) ∨
    (∃ a bs, op = .memWrite a bs ∧ (bs = [] ∨ a.toNat + bs.length ≤ s.cfg.memSize) ∧
      t = { s with mem := s.mem.writeBytes a.toNat bs }) ∨
    (∃ a n, op = .memRead a n ∧ t = { s with reads := .bytes (s.mem.readBytes a.toNat n) :: s.reads }) ∨
    (op = .waitIdle ∧ t = hostWait s) ∨
    (op = .rst ∧ t = s.pulseReset) := by
  cases op with
  | regWrite w off v =>
    simp only [hostPerform, hostRegWrite] at h
    split at h
    · rename_i hw; cases h; exact .inl ⟨w, off, v, rfl, hw, rfl⟩
    · cases h
  | regRead w off =>
    simp only [hostPerform, hostRegRead] at h
    split at h
    · rename_i hw; cases h; exact .inr (.inl ⟨w, off, rfl, hw, rfl⟩)
    · cases h
  | memWrite a bs =>
    simp only [hostPerform, hostMemWrite, hostMemAccess] at h
    split at h
    · cases h
    · rename_i hb
      split at h
      · cases h
      · cases h
        refine .inr (.inr (.inl ⟨a, bs, rfl, ?_, rfl⟩))
        simp only [Window.outside, Bool.and_eq_true, decide_eq_true_eq, not_and, Nat.not_lt] at hb
        by_cases hn : bs = []
        · exact .inl hn
        · exact .inr (hb (List.length_pos_iff.mpr hn))
  | memRead a n =>
    simp only [hostPerform, hostMemRead, hostMemAccess] at h
    split at h
    · cases h
    · split at h
      · cases h
      · cases h; exact .inr (.inr (.inr (.inl ⟨a, n, rfl, rfl⟩)))
  | waitIdle => cases h; exact .inr (.inr (.inr (.inr (.inl ⟨rfl, rfl⟩))))
  | rst => cases h; exact .inr (.inr (.inr (.inr (.inr ⟨rfl, rfl⟩))))

/-- Everything a step can do where it answers a next state. -/
theorem step_cases {s t : State} (h : step s = .next t) :
    (s.engineTurn = true ∧ ∃ i, decode s.latch.cmd = .ok i ∧ exec i s = .next t) ∨
    (s.engineTurn = true ∧ ∃ r, decode s.latch.cmd = .error r ∧ t = s.finish .illegalCmd) ∨
    (s.engineTurn = false ∧ s.script = [] ∧ t = s) ∨
    (s.engineTurn = false ∧ ∃ op rest, s.script = op :: rest ∧ hostPerform (s.hostTurn rest) op = .next t) := by
  cases ht : s.engineTurn with
  | true =>
    rw [step_engine ht] at h
    cases hd : decode s.latch.cmd with
    | ok i => rw [engineStep_ok hd] at h; exact .inl ⟨rfl, i, rfl, h⟩
    | error r => rw [engineStep_error hd] at h; cases h; exact .inr (.inl ⟨rfl, r, rfl, rfl⟩)
  | false =>
    rw [step_host ht] at h
    cases hs : s.script with
    | nil =>
      rw [hostStep, hs] at h
      cases h
      exact .inr (.inr (.inl ⟨rfl, rfl, rfl⟩))
    | cons op rest =>
      rw [hostStep_cons hs] at h
      exact .inr (.inr (.inr ⟨rfl, op, rest, rfl, h⟩))

end Sys2Proof.Machine
end

