-- ==== Sys2Proof/Laws/HostAccess.lean ====
section
/-! SUPPORT. The host's accesses (R45, R100) and runs of several steps: register writes while IDLE and while BUSY, what they
do to DST_OCC, that no step lengthens the host's script, when a buffer access meets a window of the running command or
addresses memory does not have, what every run keeps, and a run one step longer. -/

namespace Sys2Proof.Machine

/-! ### Register writes and the host's script -/

theorem writeOffset_idle {s : State} (h : s.engine = .idle) (off : BitVec 11) (v : Word) :
   s.writeOffset off v = match regAt off with | some r => s.writeReg r v | none => s := by
  rw [State.writeOffset, State.isBusy_eq_false.mpr h]; rfl

theorem writeOffset_busy {s : State} (h : s.engine = .busy) (off : BitVec 11) (v : Word) :
   s.writeOffset off v = s := by
  rw [State.writeOffset, State.isBusy_iff.mpr h]; rfl

/-- The register of a PAL window offset (R50). -/
theorem regAt_pal (i : Fin 256) (off : BitVec 11) (h : off.toNat = 0x400 + 4 * i.val) : ∃ j : Byte,
    regAt off = some (.pal j) ∧ j.toFin = i := by
  refine ⟨off.extractLsb' 2 8, ?_, ?_⟩
  · unfold regAt; rw [if_pos (by omega)]
  · apply Fin.ext
    show (off.extractLsb' 2 8).toNat = i.val
    rw [BitVec.extractLsb'_toNat, Nat.shiftRight_eq_div_pow]; omega

theorem State.issue_script (s : State) (v : Word) : (s.issue v).script = s.script := by
  unfold State.issue; split <;> rfl

theorem State.issue_dstOcc (s : State) (v : Word) : (s.issue v).dstOcc = s.dstOcc := by
  unfold State.issue; split <;> rfl

theorem State.writeOffset_script (s : State) (off : BitVec 11) (v : Word) : (s.writeOffset off v).script = s.script := by
  unfold State.writeOffset
  split
  · rfl
  · split
    · rename_i r _; cases r <;> first | rfl | exact State.issue_script s v
    · rfl

theorem State.pulseReset_script (s : State) : s.pulseReset.script = s.script := by
  show s.abandon.script = _
  unfold State.abandon
  split
  · split <;> rfl
  · rfl

/-- STATUS is mapped at offset 0x004 alone (R32). -/
theorem regAt_status_iff (off : BitVec 11) : regAt off = some .status ↔ off = 0x004 := by
  revert off; decide +kernel

/-- A register write clears DST_OCC only at STATUS, while IDLE, with bit 2 set (R45). -/
theorem State.writeOffset_dstOcc (s : State) (off : BitVec 11) (v : Word) :
    (s.writeOffset off v).dstOcc = (s.dstOcc && !(!s.isBusy && decide (off = 0x004) && v.getLsbD 2)) := by
  unfold State.writeOffset
  cases s.isBusy
  · rw [if_neg (by simp)]
    by_cases h : off = 0x004
    · subst h
      show (s.dstOcc && !v.getLsbD 2) = _
      simp
    · have hn : regAt off ≠ some .status := fun hr => h ((regAt_status_iff off).mp hr)
      cases hr : regAt off with
      | none => simp [show ¬ off = 4#11 from h]
      | some r =>
        cases r <;> first | exact absurd hr hn | (simp [show ¬ off = 4#11 from h, State.writeReg, State.issue_dstOcc])
  · simp

/-- No step puts a new statement into the host's script. -/
theorem step_script_mem {s t : State} (h : step s = .next t) {op : HostOp} (ho : op ∈ t.script) : op ∈ s.script := by
  rcases step_cases h with ⟨_, i, _, hx⟩ | ⟨_, _, _, rfl⟩ | ⟨_, _, rfl⟩ | ⟨_, o, rest, hs, hp⟩
  · rwa [exec_script hx] at ho
  · exact ho
  · exact ho
  · have hr : op ∈ rest → op ∈ s.script := fun hm => hs ▸ List.mem_cons_of_mem _ hm
    rcases hostPerform_cases hp with ⟨w, off, v, rfl, _, rfl⟩ | ⟨w, off, rfl, _, rfl⟩ | ⟨a, bs, rfl, _, rfl⟩ |
      ⟨a, n, rfl, rfl⟩ | ⟨rfl, rfl⟩ | ⟨rfl, rfl⟩
    · rw [State.writeOffset_script] at ho; exact hr ho
    · exact hr ho
    · exact hr ho
    · exact hr ho
    · unfold hostWait at ho
      split at ho
      · rw [hs]; exact ho
      · exact hr ho
    · rw [State.pulseReset_script] at ho; exact hr ho

/-! ### Buffer accesses -/

/-- Two windows overlap exactly where some byte lies in both (R99). -/
theorem Window.overlaps_iff_byte (a n b m : Nat) : (Window.overlaps ⟨a, n⟩ ⟨b, m⟩ = true) ↔ ∃ x, a ≤ x ∧
    x < a + n ∧ b ≤ x ∧ x < b + m := by
  rw [Window.overlaps_eq_true]
  constructor
  · rintro ⟨h1, h2, h3, h4⟩
    exact ⟨max a b, by simp at *; omega⟩
  · rintro ⟨x, h1, h2, h3, h4⟩; simp only; omega

theorem runningWindows_of_busy {s : State} {i : Instr} (hb : s.engine = .busy)
    (hd : decode s.latch.cmd = .ok i) : s.runningWindows = (if usesSrc i then [s.srcWindow] else []) ++
    (if usesDst i then [s.dstWindow] else []) := by
  have h1 : s.isBusy = true := State.isBusy_iff.mpr hb
  have h2 : s.running = some i := by unfold State.running; rw [hd]
  unfold State.runningWindows; rw [h1, h2]

theorem runningWindows_of_idle {s : State} (hb : s.engine = .idle) : s.runningWindows = [] := by
  have h1 : s.isBusy = false := State.isBusy_eq_false.mpr hb
  unfold State.runningWindows; rw [h1]

/-- A range meets the running command's windows exactly where some byte of it lies in a window the command uses (R100). -/
theorem runningWindows_any_iff {s : State} {i : Instr} (hb : s.engine = .busy) (hd : decode s.latch.cmd = .ok i)
    (a n : Nat) :
   s.runningWindows.any (Window.overlaps ⟨a, n⟩) = true ↔ ∃ x, a ≤ x ∧ x < a + n ∧ ((usesSrc i = true ∧
       s.latch.srcAddr.toNat ≤ x ∧ x < s.latch.srcAddr.toNat + s.latch.srcLen.toNat) ∨
         (usesDst i = true ∧ s.latch.dstAddr.toNat ≤ x ∧ x < s.latch.dstAddr.toNat + s.latch.dstCap.toNat)) := by
  rw [runningWindows_of_busy hb hd, List.any_append, Bool.or_eq_true]
  have h1 : ((if usesSrc i = true then [s.srcWindow] else []).any (Window.overlaps ⟨a, n⟩) = true) ↔
      usesSrc i = true ∧ Window.overlaps ⟨a, n⟩ s.srcWindow = true := by
    split <;> simp_all
  have h2 : ((if usesDst i = true then [s.dstWindow] else []).any (Window.overlaps ⟨a, n⟩) = true) ↔
      usesDst i = true ∧ Window.overlaps ⟨a, n⟩ s.dstWindow = true := by
    split <;> simp_all
  rw [h1, h2, State.srcWindow, State.dstWindow, Window.overlaps_iff_byte, Window.overlaps_iff_byte]
  constructor
  · rintro (⟨h, x, a, b, c, d⟩ | ⟨h, x, a, b, c, d⟩)
    · exact ⟨x, a, b, .inl ⟨h, c, d⟩⟩
    · exact ⟨x, a, b, .inr ⟨h, c, d⟩⟩
  · rintro ⟨x, a, b, ⟨h, c, d⟩ | ⟨h, c, d⟩⟩
    · exact .inl ⟨h, x, a, b, c, d⟩
    · exact .inr ⟨h, x, a, b, c, d⟩

theorem hostMemAccess_of_inside {s t : State} {w : Window} (hin : w.base + w.len ≤ s.cfg.memSize)
    (h : s.runningWindows.any w.overlaps = false) : hostMemAccess s w t = .next t := by
  unfold hostMemAccess
  rw [if_neg (by simp; omega), h]; rfl

/-- Two states with the same parameters and running windows allow the same accesses. -/
theorem hostMemAccess_cases {s s' : State} (h1 : s'.cfg = s.cfg) (h2 : s'.runningWindows = s.runningWindows)
    (w : Window) (t t' : State) :
   (hostMemAccess s w t = .next t ∧ hostMemAccess s' w t' = .next t') ∨ ∃ f, hostMemAccess s w t = .fault f ∧
       hostMemAccess s' w t' = .fault f := by
  unfold hostMemAccess; rw [h1, h2]
  split
  · exact .inr ⟨_, rfl, rfl⟩
  · split
    · exact .inr ⟨_, rfl, rfl⟩
    · exact .inl ⟨rfl, rfl⟩

/-- An access stops with `bufferOutside` exactly where it is of at least one byte and its end lies above MEM_SIZE (R80). -/
theorem hostMemAccess_bufferOutside_iff (s : State) (w : Window) (t : State) :
    hostMemAccess s w t = .fault .bufferOutside ↔ 0 < w.len ∧ s.cfg.memSize < w.base + w.len := by
  rw [← Window.outside_eq_true, ← decide_eq_true_iff (p := 0 < w.len), ← Bool.and_eq_true]
  unfold hostMemAccess
  split
  · rename_i h; simp [h]
  · rename_i h
    split <;> simp [h]

/-- An access of no byte goes through (assumption 13). -/
theorem hostMemAccess_zero (s : State) (a : Nat) (t : State) : hostMemAccess s ⟨a, 0⟩ t = .next t := by
  have h : s.runningWindows.any (Window.overlaps ⟨a, 0⟩) = false := by simp [Window.overlaps]
  unfold hostMemAccess
  rw [if_neg (by simp), h]; rfl

/-- A host statement stops with `bufferOutside` exactly where it is such an access. -/
theorem hostPerform_bufferOutside_iff (s : State) (op : HostOp) :
    hostPerform s op = .fault .bufferOutside ↔ ∃ (addr : Word) (n : Nat),
      (op = .memRead addr n ∨ ∃ bs, op = .memWrite addr bs ∧ bs.length = n) ∧ 0 < n ∧ s.cfg.memSize < addr.toNat + n := by
  cases op with
  | memRead addr n => simp [hostPerform, hostMemRead, hostMemAccess_bufferOutside_iff]
  | memWrite addr bs => simp [hostPerform, hostMemWrite, hostMemAccess_bufferOutside_iff]
  | regWrite w off v => simp only [hostPerform, hostRegWrite]; split <;> simp
  | regRead w off => simp only [hostPerform, hostRegRead]; split <;> simp
  | waitIdle => simp [hostPerform]
  | rst => simp [hostPerform]

/-! ### Runs -/

theorem step_of_script_nil {s : State} (ht : s.engineTurn = false) (hs : s.script = []) : step s = .next s := by
  rw [step_host ht, hostStep, hs]

theorem run_next {n : Nat} {s t : State} (h : step s = .next t) : Host.Core.run Sys2Proof.core
    (n + 1) s = Host.Core.run Sys2Proof.core n t := by
  have h' : Sys2Proof.core.step s = .next t := h
  simp only [Host.Core.run, h']

/-- What every step keeps, every run keeps. -/
theorem run_keeps {P : State → Prop} (hP : ∀ s t, P s → step s = .next t → P t) {n : Nat} {s t : State} (hs : P s)
    (h : Host.Core.run Sys2Proof.core n s = .next t) : P t := by
  induction n generalizing s with
  | zero => cases h; exact hs
  | succ n ih =>
    cases h1 : step s with
    | next w => rw [run_next h1] at h; exact ih (hP s w hs h1) h
    | fault f => have h1' : Sys2Proof.core.step s = .fault f := h1
                 simp only [Host.Core.run, h1'] at h; cases h
    | refused f => have h1' : Sys2Proof.core.step s = .refused f := h1
                   simp only [Host.Core.run, h1'] at h; cases h

theorem run_snoc {n : Nat} {s t u : State} (h : Host.Core.run Sys2Proof.core n s = .next t)
    (hu : step t = .next u) : Host.Core.run Sys2Proof.core (n + 1) s = .next u := by
  induction n generalizing s with
  | zero => cases h; rw [run_next hu]; rfl
  | succ n ih =>
    cases h1 : step s with
    | next w => rw [run_next h1] at h ⊢; exact ih h
    | fault f => have h1' : Sys2Proof.core.step s = .fault f := h1
                 simp only [Host.Core.run, h1'] at h; cases h
    | refused f => have h1' : Sys2Proof.core.step s = .refused f := h1
                   simp only [Host.Core.run, h1'] at h; cases h

end Sys2Proof.Machine
end

