-- ==== Sys2Proof/Laws/Images.lean ====
section
/-! SUPPORT. What the images a command reads depend on: the fold of PAL_LOAD, the packed and unpacked pixels, and which bytes
of memory the image of CV2_ENC.n or CV2_DEC is computed from. -/

namespace Sys2Proof.Machine

/-! ### The fold and the packed words -/

/-- The fold keeps its start where every word has bit 15 set, and otherwise names the last word that has it clear (R160). -/
theorem transparentFold_spec (ws : List Half) : ∀ i acc,
   ((∀ w ∈ ws, w.getLsbD 15 = true) → transparentFold ws i acc = acc) ∧
   (∀ k (hk : k < ws.length), ws[k].getLsbD 15 = false → (∀ j (hj : j < ws.length), k < j →
       ws[j].getLsbD 15 = true) → transparentFold ws i acc = (BitVec.ofNat 8 (i + k), true)) := by
  induction ws with
  | nil => intro i acc; exact ⟨fun _ => rfl, fun k hk => absurd hk (by simp)⟩
  | cons w ws ih =>
    intro i acc
    refine ⟨fun h => ?_, fun k hk hf ht => ?_⟩
    · unfold transparentFold
      rw [if_pos (h w (by simp))]
      exact (ih _ _).1 fun w hw => h w (by simp [hw])
    · unfold transparentFold
      cases k with
      | zero =>
        change w.getLsbD 15 = false at hf
        rw [hf]
        rw [(ih _ _).1]
        · simp
        · intro w' hw'
          obtain ⟨j, hj, rfl⟩ := List.getElem_of_mem hw'
          have := ht (j+1) (by simpa using hj) (by omega)
          simpa using this
      | succ k =>
        have hk' : k < ws.length := by simpa using hk
        rw [(ih _ _).2 k hk' (by simpa using hf)]
        · congr 2; omega
        · intro j hj hkj
          have := ht (j+1) (by simpa using hj) (by omega)
          simpa using this

theorem palWords_getElem (m : Memory) (src i : Nat) (h : i < (palWords m src).length) :
    (palWords m src)[i] = m.palWord src i := by
  simp [palWords]

theorem palWords_length (m : Memory) (src : Nat) : (palWords m src).length = 256 := by simp [palWords]

/-- Without a transparent entry the fold's index stays what it was. -/
theorem transparentFold_index_zero : ∀ (ws : List Half) (i : Nat) (acc : Byte × Bool), (acc.2 = false →
    acc.1 = 0) → (transparentFold ws i acc).2 = false → (transparentFold ws i acc).1 = 0
  | [], _, _, h => h
  | w :: ws, i, acc, h => by
    rw [transparentFold]
    apply transparentFold_index_zero ws
    split
    · exact h
    · intro h; cases h

/-! ### Pixels and rows -/

/-- A pixel inside a raster ends inside it. -/
theorem pixel_in_raster {x y W H : Nat} (hx : x < W) (hy : y < H) (k : Nat) : (y * W + x) * k + k ≤ W * H * k := by
  rw [← Nat.succ_mul]; apply Nat.mul_le_mul_right
  calc y * W + x + 1 ≤ y * W + W := by omega
    _ = (y+1) * W := by rw [Nat.succ_mul]
    _ ≤ H * W := Nat.mul_le_mul_right _ hy
    _ = _ := Nat.mul_comm _ _

theorem Color.bytes_injective {c d : Color} (h : c.bytes = d.bytes) : c = d := by
  cases c; cases d; simp [Color.bytes] at h; simp [h]

theorem s32_mul_eq_toNat {v w : Word} (h1 : 1 ≤ s32 v) (h2 : 1 ≤ s32 w) : s32 v * s32 w =
    ((v.toNat * w.toNat : Nat) : Int) := by
  rw [(s32_eq_toNat h1).1, (s32_eq_toNat h2).1]; push_cast; rfl

/-- Part of what a byte range reads as. -/
theorem Memory.readBytes_part (m : Memory) (a n k j : Nat) (h : k + j ≤ n) : m.readBytes (a + k) j =
    ((m.readBytes a n).drop k).take j := by
  apply List.ext_getElem
  · simp; omega
  · intro i h1 h2
    rw [Memory.getElem_readBytes]; simp [Memory.getElem_readBytes, Nat.add_assoc]

/-- A field whose four bytes are those of `v` reads as `v`. -/
theorem Memory.word_of_readBytes {m : Memory} {a : Nat} {v : Word}
    (h : m.readBytes a 4 = bytesLE32 v) : m.word a = v := by
  simp only [Memory.readBytes, List.range_succ, List.range_zero, List.nil_append, List.map_cons, List.map_nil,
      List.cons_append, bytesLE32, List.cons.injEq, and_true, Nat.add_zero] at h
  simp only [Memory.word, h.1, h.2.1, h.2.2.1, h.2.2.2]
  exact le32_bytes v

/-- Two memories written with the same bytes agree on them. -/
theorem Memory.read_writeBytes_congr {m m' : Memory} {a n : Nat} {bs : List Byte} (h1 : n ≤ bs.length) : ∀ x,
    a ≤ x → x < a + n → (m.writeBytes a bs).read x = (m'.writeBytes a bs).read x := by
  intro x h2 h3
  rw [Memory.read_writeBytes, Memory.read_writeBytes, dif_pos ⟨h2, by omega⟩, dif_pos ⟨h2, by omega⟩]

/-- An unpacked pixel depends on the bytes of that pixel only. -/
theorem unpackPixel_congr (d : Depth) (pal : Vector Color 256) (m m' : Memory) (p : Nat) (h : ∀ k, k < psize d →
    m.read (p + k) = m'.read (p+k)) :
   unpackPixel d pal m p = unpackPixel d pal m' p := by
  have h0 : psize d > 0 := by cases d <;> decide
  have h' := h 0 h0
  rw [Nat.add_zero] at h'
  cases d
  · simp only [unpackPixel, h']
  · simp only [unpackPixel]; rw [Memory.half_congr h]
  · simp only [unpackPixel, h', h 1 (by decide), h 2 (by decide), h 3 (by decide)]
  · simp only [unpackPixel, h', h 1 (by decide), h 2 (by decide), h 3 (by decide)]

/-! ### CV2 images -/

/-- The stride of an image that decodes is at least its width (R254). -/
theorem headerWidth_le_headerStride {d s} (h : DecodeReady d s) : (headerWidth s).toNat ≤ (headerStride s).toNat := by
  obtain ⟨_, _, _, _, _, _, _, hw, hh, hst, _⟩ := h
  have a := (s32_eq_toNat hw).1
  have b := (s32_eq_toNat (v := headerStride s) (by omega)).1
  omega

/-- The decoded raster depends on the header's first 13 bytes and on the pixels of the columns before `width` only. -/
theorem decodeImage_congr (d : Depth) (s : State) (m : Memory) (hhdr : ∀ k, k < 13 →
    m.read (s.latch.srcAddr.toNat + k) = s.mem.read (s.latch.srcAddr.toNat + k))
    (hpx : ∀ x y k, x < (headerWidth s).toNat → y < (headerHeight s).toNat → k < psize d →
      m.read (s.latch.srcAddr.toNat + 17 + (y * (headerStride s).toNat + x) * psize d + k) =
        s.mem.read (s.latch.srcAddr.toNat + 17 + (y * (headerStride s).toNat + x) * psize d + k)) :
   headerDepth {s with mem := m} = headerDepth s ∧ headerWidth {s with mem := m} = headerWidth s ∧
       headerHeight {s with mem := m} = headerHeight s ∧ headerStride {s with mem := m} = headerStride s ∧
       decodeImage d {s with mem := m} = decodeImage d s := by
  have hw : headerWidth {s with mem := m} = headerWidth s := by
    apply Memory.word_congr; intro k hk
    have := hhdr (1 + k) (by omega); rwa [← Nat.add_assoc] at this
  have hh : headerHeight {s with mem := m} = headerHeight s := by
    apply Memory.word_congr; intro k hk
    have := hhdr (5 + k) (by omega); rwa [← Nat.add_assoc] at this
  have hst : headerStride {s with mem := m} = headerStride s := by
    apply Memory.word_congr; intro k hk
    have := hhdr (9 + k) (by omega); rwa [← Nat.add_assoc] at this
  have hd : headerDepth {s with mem := m} = headerDepth s := by
    unfold headerDepth; exact congrArg depthOfByte (hhdr 0 (by omega))
  refine ⟨hd, hw, hh, hst, ?_⟩
  unfold decodeImage
  rw [hw, hh, hst]
  unfold decodeBody
  apply List.flatMap_congr; intro y hy
  apply List.flatMap_congr; intro x hx
  split
  · rename_i hxw
    exact congrArg Color.bytes (unpackPixel_congr d s.pal m s.mem _ (fun k hk => hpx x y k hxw
        (List.mem_range.mp hy) hk))
  · rfl

/-- The encoded image depends on the source window only. -/
theorem encodeImage_congr (d : Depth) (s : State) (m : Memory)
    (hb : s.latch.width.toNat * s.latch.height.toNat * 4 ≤ s.latch.srcLen.toNat) (h : ∀ a,
    s.latch.srcAddr.toNat ≤ a → a < s.latch.srcAddr.toNat + s.latch.srcLen.toNat → m.read a = s.mem.read a) :
   encodeImage d {s with mem := m} = encodeImage d s := by
  unfold encodeImage encodeBody
  congr 1
  apply List.flatMap_congr; intro y hy
  apply List.flatMap_congr; intro x hx
  have := pixel_in_raster (W := s.latch.width.toNat) (H := s.latch.height.toNat) (List.mem_range.mp hx)
      (List.mem_range.mp hy) 4
  rw [Memory.color_congr (m := ({s with mem := m} : State).mem) (m' := s.mem)]
  · rfl
  · intro k hk
    apply h
    · simp only [State.srcWindow_base]; omega
    · simp only [State.srcWindow_base, pixelOffset]; omega

end Sys2Proof.Machine
end

