-- ==== Sys2Proof/Laws/PerInstr.lean ====
section
/-! SUPPORT. Statements made per command: a command's word is legal and is matched by exactly one row of the table (R125, R126). -/

namespace Sys2Proof.Laws.EncodedLegal

/-- The command is well-formed, none of the conditions of R125 holds of its word, and exactly one mask and match row of R126
hits the word. -/
def Statement (i : Instr) : Prop :=
  i.wellFormed = true ∧ wordLegal (encode i) = true ∧ (opcodeRows.filter fun r => r.hits (encode i)).length = 1

/-- Every value of T is tried. -/
theorem palSet_all : ∀ t : Byte, Statement (.palSet t) := by
  unfold Statement
  decide +kernel

theorem palLoad : Statement .palLoad := by
  unfold Statement
  decide +kernel

theorem palSave : Statement .palSave := by
  unfold Statement
  decide +kernel

theorem palSet (t : Byte) : Statement (.palSet t) := palSet_all t

theorem palSwatch : Statement .palSwatch := by
  unfold Statement
  decide +kernel

theorem palInval : Statement .palInval := by
  unfold Statement
  decide +kernel

theorem lookup : Statement .lookup := by
  unfold Statement
  decide +kernel

theorem cv2Enc8 : Statement .cv2Enc8 := by
  unfold Statement
  decide +kernel

theorem cv2Enc16 : Statement .cv2Enc16 := by
  unfold Statement
  decide +kernel

theorem cv2Enc24 : Statement .cv2Enc24 := by
  unfold Statement
  decide +kernel

theorem cv2Enc32 : Statement .cv2Enc32 := by
  unfold Statement
  decide +kernel

theorem cv2Dec : Statement .cv2Dec := by
  unfold Statement
  decide +kernel

end Sys2Proof.Laws.EncodedLegal
end

