-- ==== Sys2Proof/Tests/Slice0.lean ====
section
/-! SUPPORT. The model's own tests. Expected results are those of spec/95_test_vectors.md, named by their ids there, or of
the numbered rule named; then one witness for the hypotheses of every statement that has some. -/

namespace Sys2Proof.Tests

open Sys2Proof.Machine

/-! ### Small states -/

/-- The word of `i` has just been accepted with these operands, and the engine moves next. -/
def busyWith (i : Instr) (src len dst cap w h color : Word) (m : Memory) : State :=
  { State.reset with
    engine := .busy, cmd := encode i, srcAddr := src, srcLen := len, dstAddr := dst, dstCap := cap
    width := w, height := h, color := color, latch := ⟨encode i, src, len, dst, cap, w, h, color⟩, mem := m }

/-- An IDLE machine whose host has these statements to run. -/
def hostWith (ops : List HostOp) : State := { State.reset with script := ops }

/-- The host's turn comes first: the running command has this much latency left. -/
def waiting (s : State) (n : Nat) (ops : List HostOp) : State := { s with wait := n, script := ops }

/-- A valid palette. -/
def withPal (f : Nat → Color) (t : Byte) (s : State) : State :=
  { s with pal := palOf f, palValid := true, tvalid := true, tidx := t }

/-- Packed word `i` of palette PAL-A (95_test_vectors.md 2.7). -/
def wordA (i : Nat) : Half :=
  if i = 0 then 0x0000 else if i = 5 then 0x0005 else if i = 200 then 0x8001 else 0x8000 ||| BitVec.ofNat 16 i

/-- Entry `i` of palette PAL-A. -/
def colorA (i : Nat) : Color := fromPacked16 (wordA i)

/-- Memory holding these bytes from address `a`. -/
def bytesAt (a : Nat) (bs : List Byte) : Memory := Memory.writeBytes [] a bs

/-- What is looked at after a step that must answer a next state. -/
def seen {α : Type} (o : Host.Outcome State Fault Refusal) (f : State → α) : Option α :=
  match o with
  | .next t => some (f t)
  | .fault _ => none
  | .refused _ => none

/-! ### WellFormed: a term each check refuses -/

theorem test_wellFormed_op : opAssigned 0x00000000 = false ∧ opAssigned 0x00000009 = false ∧
    opAssigned 0x0000000F = false ∧ opAssigned 0x00000001 = true ∧ opAssigned 0x00000008 = true := by decide

theorem test_wellFormed_reserved : reservedClear 0x00010001 = false ∧ reservedClear 0x80000006 = false ∧
    reservedClear 0x00000041 = false ∧ reservedClear 0x000000C7 = false ∧ reservedClear 0x0000FF3F = true := by decide

theorem test_wellFormed_immediate : immediateClear 0x00000101 = false ∧ immediateClear 0x00000117 = false ∧
    immediateClear 0x00008006 = false ∧ immediateClear 0x0000FF03 = true := by decide

theorem test_wellFormed_depthSelect : depthSelectClear 0x00000015 = false ∧ depthSelectClear 0x00002A13 = false ∧
    depthSelectClear 0x00000028 = false ∧ depthSelectClear 0x00000037 = true := by decide

/-- Each condition of R125 alone makes a word illegal. -/
theorem test_wellFormed_word : wordLegal 0x00000009 = false ∧ wordLegal 0x00010001 = false ∧
    wordLegal 0x00000041 = false ∧ wordLegal 0x00000101 = false ∧ wordLegal 0x00000015 = false ∧
    wordLegal 0x00000001 = true := by decide

/-- R124 leaves no value of T out, so the widest T is well-formed. -/
theorem test_wellFormed_instr : (Instr.palSet 0xFF).wellFormed = true ∧ (Instr.palSet 0).wellFormed = true := by decide

/-- R47: a width that is not 32, and an offset that is not a multiple of 4, are each refused. -/
theorem test_wellFormed_access : accessWellFormed 16 0x004 = false ∧ accessWellFormed 64 0x004 = false ∧
    accessWellFormed 32 0x002 = false ∧ accessWellFormed 32 0x7FF = false ∧ accessWellFormed 32 0x7FC = true := by decide

/-! ### Decoding: words written out field by field from R120 and R122 (reserved, T, reserved, DSEL, OP) -/

theorem test_decode_palLoad : decode (0#16 ++ 0b00000000#8 ++ 0b00#2 ++ 0b00#2 ++ 0b0001#4) = .ok .palLoad := by decide
theorem test_decode_palSave : decode (0#16 ++ 0b00000000#8 ++ 0b00#2 ++ 0b00#2 ++ 0b0010#4) = .ok .palSave := by decide
theorem test_decode_palSet : decode (0#16 ++ 0b00101010#8 ++ 0b00#2 ++ 0b00#2 ++ 0b0011#4) = .ok (.palSet 42) := by decide
theorem test_decode_palSwatch : decode (0#16 ++ 0b00000000#8 ++ 0b00#2 ++ 0b00#2 ++ 0b0100#4) = .ok .palSwatch := by
  decide
theorem test_decode_palInval : decode (0#16 ++ 0b00000000#8 ++ 0b00#2 ++ 0b00#2 ++ 0b0101#4) = .ok .palInval := by decide
theorem test_decode_lookup : decode (0#16 ++ 0b00000000#8 ++ 0b00#2 ++ 0b00#2 ++ 0b0110#4) = .ok .lookup := by decide
theorem test_decode_cv2Enc8 : decode (0#16 ++ 0b00000000#8 ++ 0b00#2 ++ 0b00#2 ++ 0b0111#4) = .ok .cv2Enc8 := by decide
theorem test_decode_cv2Enc16 : decode (0#16 ++ 0b00000000#8 ++ 0b00#2 ++ 0b01#2 ++ 0b0111#4) = .ok .cv2Enc16 := by decide
theorem test_decode_cv2Enc24 : decode (0#16 ++ 0b00000000#8 ++ 0b00#2 ++ 0b10#2 ++ 0b0111#4) = .ok .cv2Enc24 := by decide
theorem test_decode_cv2Enc32 : decode (0#16 ++ 0b00000000#8 ++ 0b00#2 ++ 0b11#2 ++ 0b0111#4) = .ok .cv2Enc32 := by decide
theorem test_decode_cv2Dec : decode (0#16 ++ 0b00000000#8 ++ 0b00#2 ++ 0b00#2 ++ 0b1000#4) = .ok .cv2Dec := by decide

/-- The illegal words of 95_test_vectors.md 2.10, each with the reason the decoder names. -/
theorem test_decode_illegal : decode 0x00000000 = .error .reservedOp ∧ decode 0x0000000F = .error .reservedOp ∧
    decode 0x00000101 = .error .immediate ∧ decode 0x00010001 = .error .reservedBits ∧
    decode 0x00000041 = .error .reservedBits ∧ decode 0x00000117 = .error .immediate ∧
    decode 0x00000015 = .error .depthSelect ∧ decode 0x000000C7 = .error .reservedBits := by decide

theorem test_decodeTableWord : decodeTableWord 32 0x2A03 = some (.palSet 0x2A) ∧ decodeTableWord 32 0x9 = none := by decide

/-- A placed word is the first instruction after reset (assumption 11): PAL_SET with SRC_LEN 0 ends with FORMAT (R166). -/
theorem test_withFetchWord : seen (step (State.reset.withFetchWord 32 0x2A03)) (fun t => (t.cmd, t.err, t.done)) =
    some (0x00002A03, .format, true) := by decide

/-! ### Conversion functions -/

/-- V-PK-1, V-PK-7 to V-PK-10, V-PK-12. -/
theorem test_toPacked16 : toPacked16 ⟨255, 255, 255, 255⟩ = 0xFFFF ∧ toPacked16 ⟨3, 3, 3, 1⟩ = 0x8000 ∧
    toPacked16 ⟨7, 7, 7, 254⟩ = 0x8000 ∧ toPacked16 ⟨8, 16, 24, 0⟩ = 0x0443 ∧
    toPacked16 ⟨200, 100, 50, 128⟩ = 0xE586 ∧ toPacked16 ⟨255, 0, 255, 255⟩ = 0xFC1F := by decide

/-- V-PK-3, V-PK-5, V-PK-6, V-PK-11, V-PK-13. -/
theorem test_fromPacked16 : fromPacked16 0x7FFF = ⟨248, 248, 248, 0⟩ ∧ fromPacked16 0x8001 = ⟨0, 0, 8, 255⟩ ∧
    fromPacked16 0x1234 = ⟨32, 136, 160, 0⟩ ∧ fromPacked16 0xE586 = ⟨200, 96, 48, 255⟩ ∧
    fromPacked16 0x7C00 = ⟨248, 0, 0, 0⟩ ∧ fromPacked16 0x83E0 = ⟨0, 248, 0, 255⟩ ∧
    fromPacked16 0x801F = ⟨0, 0, 248, 255⟩ := by decide

/-! ### Buffer memory -/

/-- R7, R81: a range reads back what was written to it, in address order, and writing what an unlisted address reads as
takes the entry out. -/
theorem test_memory : (bytesAt 6 [1, 2, 0, 3]).readBytes 5 6 = [0, 1, 2, 0, 3, 0] ∧
    Memory.write [(6, 1), (7, 2)] 6 0 = [(7, 2)] ∧ (bytesAt 6 [1, 2, 0, 3]).wf = true ∧
    Memory.wf [(7, 2), (6, 1)] = false ∧ Memory.wf [(6, 0)] = false := by decide

/-! ### The palette commands -/

/-- V-LD-4's image (all words 0x0000, all its bytes unlisted) but for w[7] = 0x7C00 as in V-LD-2 and w[255] = 0x8000: the last
word whose bit 15 is 0 is w[254] (R160). -/
theorem test_palLoad : seen (step (busyWith .palLoad 0x100 513 0 0 0 0 0 [(0x110, 0x7C), (0x300, 0x80)]))
    (fun t => (t.tidx, t.statusWord, t.pal.get 7, t.pal.get 255)) =
    some (254, 0x302, ⟨248, 0, 0, 0⟩, ⟨0, 0, 0, 255⟩) := by decide +kernel

/-- V-LD-7: 600 + 513 > 1024. -/
theorem test_palLoad_range : seen (step
    { busyWith .palLoad 600 513 0 0 0 0 0 [] with cfg := ⟨1023, 0⟩ }) (fun t => t.statusWord) = some 0x082 := by
  decide

/-- Entry `i` of V-SAVE-2 for the entries whose bytes the vector lists, and (0, 0, 0, 0) elsewhere. -/
def colorSave2 (i : Nat) : Color :=
  if i < 4 ∨ i = 9 ∨ i = 10 ∨ i = 255 then
    ⟨BitVec.ofNat 8 i, BitVec.ofNat 8 (255 - i), BitVec.ofNat 8 (3 * i),
      if i = 9 then 0 else if i = 10 then 1 else 255⟩
  else ⟨0, 0, 0, 0⟩

/-- V-SAVE-2, the second command. -/
theorem test_palSave : seen (step (withPal colorSave2 9 (busyWith .palSave 0 0 0x1000 513 0 0 0 [])))
    (fun t => (t.outLen, t.mem.readBytes 0x1000 9, t.mem.readBytes 0x1013 4, t.mem.readBytes 0x11FF 2)) =
    some (513, [0x10, 0xE0, 0x83, 0xE0, 0x83, 0xE0, 0x83, 0xE1, 0x83], [0xC3, 0x07, 0xC3, 0x87], [0x1F, 0xFC]) := by
  decide +kernel

/-- V-SAVE-1, and V-SAVE-2's first command (CAPACITY). -/
theorem test_palSave_errors :
    seen (step (busyWith .palSave 0 0 0 513 0 0 0 [])) (fun t => t.err) = some .missingPalette ∧
    seen (step (withPal colorSave2 9 (busyWith .palSave 0 0 0x1000 512 0 0 0 []))) (fun t => t.err) = some .capacity := by
  decide

/-- V-SET-4. -/
theorem test_palSet : seen (step (busyWith (.palSet 0x2A) 0x20 1024 0 0 0 0 0 (bytesAt 0x20 [1, 2, 3, 4])))
    (fun t => (t.err, t.readOffset 0x400, t.tidx, t.tvalid, t.palValid)) =
    some (.none, 0x04030201, 42, true, true) := by decide +kernel

/-- V-SET-2. -/
theorem test_palSet_format : seen (step (busyWith (.palSet 0x2A) 0x20 1023 0 0 0 0 0 [])) (fun t => t.err) =
    some .format := by decide

/-- V-SW-2: pal[17] is swatch pixel (2, 2), at (2·32 + 2)·4 = 264. -/
theorem test_palSwatch : seen (step (busyWith .palSwatch 0 4096 0 0 32 32 0 (bytesAt 264 [2, 2, 7, 255])))
    (fun t => (t.err, t.pal.get 0, t.readOffset 0x444, t.tidx, t.tvalid)) =
    some (.none, ⟨0, 0, 0, 0⟩, 0xFF070202, 0, true) := by decide +kernel

/-- V-SW-3 to V-SW-7. -/
theorem test_palSwatch_errors :
    seen (step (busyWith .palSwatch 0 4096 0 0 16 32 0 [])) (fun t => t.err) = some .invalidSize ∧
    seen (step (busyWith .palSwatch 0 99999 0 0 64 64 0 [])) (fun t => t.err) = some .range ∧
    seen (step (busyWith .palSwatch 0 0 0 0 8 8 0 [])) (fun t => t.err) = some .invalidSize ∧
    seen (step (busyWith .palSwatch 0 4095 0 0 32 32 0 [])) (fun t => t.err) = some .format ∧
    seen (step (busyWith .palSwatch 0 0 0 0 0 0 0 [])) (fun t => t.err) = some .invalidSize := by decide

/-- V-INV-1: PAL[1] is masked. -/
theorem test_palInval : seen (step (withPal colorA 5 (busyWith .palInval 0 0 0 0 0 0 0 [])))
    (fun t => (t.statusWord, t.tidx, t.readOffset 0x404)) = some (0x002, 0, 0) := by decide

/-! ### LOOKUP -/

/-- V-LK-1: the lowest of 1 and 200. -/
theorem test_lookup_hit : seen (step (withPal colorA 5 (busyWith .lookup 0 0 0 0 0 0 0xFF080000 [])))
    (fun t => t.readOffset 0x030) = some 0x101 := by decide +kernel

/-- V-LK-2: magenta is absent. -/
theorem test_lookup_miss : seen (step (withPal colorA 5 (busyWith .lookup 0 0 0 0 0 0 0xFFFF00FF [])))
    (fun t => t.readOffset 0x030) = some 0x005 := by decide +kernel

/-! ### CV2_ENC.n -/

/-- The raster of V-ENC-1 to V-ENC-4, at 0x2000. -/
def rasterEnc : Memory := bytesAt 0x2000 [0, 0, 8, 255, 255, 0, 255, 255]

/-- The encoder in the state of V-ENC-1 to V-ENC-4. -/
def encState (i : Instr) : State := withPal colorA 5 (busyWith i 0x2000 8 0x3000 64 2 1 0 rasterEnc)

/-- V-ENC-1. -/
theorem test_cv2Enc8 : seen (step (encState .cv2Enc8)) (fun t => (t.outLen, t.mem.readBytes 0x3000 20)) =
    some (19, [8, 2, 0, 0, 0, 1, 0, 0, 0, 2, 0, 0, 0, 0, 0, 0, 0, 1, 5, 0]) := by decide +kernel

/-- V-ENC-7. -/
theorem test_cv2Enc8_palette : seen (step (busyWith .cv2Enc8 0x2000 8 0x3000 64 2 1 0 rasterEnc)) (fun t => t.err) =
    some .missingPalette := by decide

/-- V-ENC-2. -/
theorem test_cv2Enc16 : seen (step (encState .cv2Enc16)) (fun t => (t.statusWord, t.mem.readBytes 0x3000 21)) =
    some (0x306, [0x10, 2, 0, 0, 0, 1, 0, 0, 0, 2, 0, 0, 0, 0, 0, 0, 0, 0x01, 0x80, 0x1F, 0xFC]) := by decide

/-- V-ENC-3. -/
theorem test_cv2Enc24 : seen (step (encState .cv2Enc24)) (fun t => (t.stride, t.depth, t.mem.readBytes 0x3011 8,
    t.mem.read 0x3000)) = some (2, 24, [8, 0, 0, 255, 255, 0, 255, 255], 0x18) := by decide

/-- V-ENC-6: pixel (200, 100, 50, 128). -/
theorem test_cv2Enc32 : seen (step (busyWith .cv2Enc32 0x40 4 0x80 21 1 1 0 (bytesAt 0x40 [200, 100, 50, 128])))
    (fun t => t.mem.readBytes 0x80 21) =
    some [0x20, 1, 0, 0, 0, 1, 0, 0, 0, 1, 0, 0, 0, 0, 0, 0, 0, 0x32, 0x64, 0xC8, 0x80] := by decide

/-- V-ENC-8, V-ENC-9, V-ENC-10. -/
theorem test_cv2Enc32_errors :
    seen (step (busyWith .cv2Enc32 0x2000 8 0x3000 64 0 1 0 [])) (fun t => t.err) = some .format ∧
    seen (step (busyWith .cv2Enc32 0x2000 8 0x3000 64 0x80000000 1 0 [])) (fun t => t.err) = some .format ∧
    seen (step (busyWith .cv2Enc32 0x2000 7 0x3000 64 2 1 0 [])) (fun t => t.err) = some .format ∧
    seen (step (busyWith .cv2Enc32 0x2000 8 0x3000 24 2 1 0 [])) (fun t => t.err) = some .capacity ∧
    seen (step (busyWith .cv2Enc32 0 8 4 25 2 1 0 [])) (fun t => t.err) = some .range := by decide

/-! ### CV2_DEC -/

/-- The source of V-DEC-1: width 2, stride 4, depth 32. -/
def sourceDec1 : Memory :=
  bytesAt 0x100 ([0x20, 2, 0, 0, 0, 1, 0, 0, 0, 4, 0, 0, 0, 0, 0, 0, 0] ++
    [0x03, 0x02, 0x01, 0x04, 0x07, 0x06, 0x05, 0xFF, 0xAA, 0xBB, 0xCC, 0xDD, 1, 1, 1, 1])

/-- The source of V-DEC-3: depth 16, stride 3, reserved field 0xDEADBEEF. -/
def sourceDec3 : Memory :=
  bytesAt 0x100 ([0x10, 2, 0, 0, 0, 2, 0, 0, 0, 3, 0, 0, 0, 0xEF, 0xBE, 0xAD, 0xDE] ++
    [0xFF, 0xFF, 0xFF, 0x7F, 0x12, 0x34, 0x00, 0x80, 0x86, 0xE5, 0x00, 0x00])

/-- The source of V-DEC-12: depth 8, stride 3. -/
def sourceDec12 : Memory :=
  bytesAt 0x100 [8, 2, 0, 0, 0, 1, 0, 0, 0, 3, 0, 0, 0, 0, 0, 0, 0, 0x01, 0x05, 0xC8]

/-- V-DEC-1, V-DEC-3, V-DEC-12. -/
theorem test_cv2Dec :
    seen (step (busyWith .cv2Dec 0x100 33 0x400 8 0 0 0 sourceDec1))
      (fun t => (t.mem.readBytes 0x400 9, t.width, t.stride, t.depth, t.statusWord)) =
      some ([1, 2, 3, 4, 5, 6, 7, 0xFF, 0], 2, 4, 32, 0x006) ∧
    seen (step (busyWith .cv2Dec 0x100 29 0x400 16 0 0 0 sourceDec3)) (fun t => t.mem.readBytes 0x400 16) =
      some [0xF8, 0xF8, 0xF8, 0xFF, 0xF8, 0xF8, 0xF8, 0x00, 0, 0, 0, 0xFF, 0xC8, 0x60, 0x30, 0xFF] ∧
    seen (step (withPal colorA 5 (busyWith .cv2Dec 0x100 20 0x400 8 0 0 0 sourceDec12)))
      (fun t => t.mem.readBytes 0x400 8) = some [0, 0, 8, 0xFF, 0, 0, 0x28, 0] := by decide +kernel

/-- V-DEC-6, V-DEC-8, V-DEC-9, V-DEC-13. -/
theorem test_cv2Dec_errors :
    seen (step (busyWith .cv2Dec 0 16 0x400 8 0 0 0 [(0, 7)])) (fun t => t.err) = some .format ∧
    seen (step (busyWith .cv2Dec 0 17 0x400 8 0 0 0 [(0, 7)])) (fun t => t.err) = some .unsupportedFormat ∧
    seen (step (busyWith .cv2Dec 0 17 0x400 8 0 0 0 [(0, 8)])) (fun t => t.err) = some .missingPalette ∧
    seen (step (busyWith .cv2Dec 0 18 0x400 8 0 0 0 [(0, 255)])) (fun t => t.err) = some .unsupportedFormat := by decide

/-! ### The host -/

/-- V-REG-1, V-REG-2, V-REG-3, V-REG-4. -/
theorem test_registers : (State.reset.writeOffset 0x000 0xFFFFFFFF).readOffset 0x000 = 1 ∧
    (State.reset.writeOffset 0x030 5).readOffset 0x030 = 0 ∧ (State.reset.writeOffset 0x03C 1).readOffset 0x03C = 0 ∧
    State.reset.readOffset 0x400 = 0 := by decide

/-- V-REG-5, V-REG-6: STATUS 0x306, then the write-1-to-clear bits. -/
theorem test_status_clear :
    (({ State.reset with done := true, dstOcc := true, palValid := true, tvalid := true }).writeOffset 0x004 0x2).statusWord
      = 0x304 ∧
    (({ State.reset with done := true, dstOcc := true, palValid := true, tvalid := true }).writeOffset 0x004 0x6).statusWord
      = 0x300 := by decide

/-- V-REG-7: while BUSY a write is ignored. -/
theorem test_busy_write : seen (step (waiting (busyWith .palInval 0 0 0 0 0 0 0 []) 1 [scriptWrite .srcAddr 5]))
    (fun t => t.srcAddr) = some 0 := by decide

/-- V-REG-8: `irq` is 1 after a completion with IE = 1, and 0 after ACK. -/
theorem test_irq :
    seen (step { busyWith .palInval 0 0 0 0 0 0 0 [] with ie := true }) (fun t => t.irq) = some true ∧
    seen (step { hostWith [scriptAck] with ie := true, done := true }) (fun t => t.irq) = some false := by decide

/-- R100: a touched byte of the running source window faults, the byte before it does not. -/
theorem test_buffer_hazard :
    (match step (waiting (encState .cv2Enc16) 1 [.memWrite 0x1FFF [9, 9]]) with
      | .fault f => f == .bufferHazard
      | .next _ => false
      | .refused _ => false) = true ∧
    seen (step (waiting (encState .cv2Enc16) 1 [.memWrite 0x1FFF [9]])) (fun t => t.mem.read 0x1FFF) = some 9 := by
  decide

/-- R47. -/
theorem test_bus_error :
    (match step (hostWith [.regRead 16 0x004]) with
      | .refused r => r == .busError
      | .next _ => false
      | .fault _ => false) = true := by decide

/-- R340: the reset input, from a used machine. -/
theorem test_reset_pulse : seen (step { hostWith [.rst] with ie := true, done := true, dstOcc := true, width := 7, tidx := 3 })
    (fun t => (t.readOffset 0x000, t.statusWord, t.width, t.tidx)) = some (0, 0, 0, 0) := by decide

/-! ### Witnesses: states and operands that meet the hypotheses of the statements, at the ends of their ranges

`premises_X` is about Obligations.X. Each of its parts is one clause of that statement. MEM_SIZE is 65536 = 0x10000. -/

/-- The common checks, evaluated. -/
theorem pass_of {i : Instr} {s : State} (h : firstError (commonChecks i s) = none) : CommonPass i s :=
  commonChecks_none.mp h

/-- A used machine: a valid palette, an occupied destination. -/
def occupied (s : State) : State := { s with dstOcc := true }

/-- The latched word is one no command has. -/
def illegalState : State :=
  { busyWith .lookup 0 0 0 0 0 0 0 [] with cmd := 9, latch := ⟨9, 0, 0, 0, 0, 0, 0, 0⟩ }

theorem premises_EveryCommandHasExactlyOneWord :
    (Instr.palSet 0xFF).wellFormed = true ∧ decode 0x0000FF03 = .ok (.palSet 0xFF) := by decide

theorem premises_IllegalWordsAreThoseOfTheMustBeZeroRules :
    illegalState.engineTurn = true ∧ decode illegalState.latch.cmd = .error .reservedOp := by decide

theorem premises_StepRunsTheLatchedCommand :
    (busyWith .cv2Enc32 0 0 0 0 0 0 0 []).engine = .busy ∧ (busyWith .cv2Enc32 0 0 0 0 0 0 0 []).wait = 0 ∧
    decode (busyWith .cv2Enc32 0 0 0 0 0 0 0 []).latch.cmd = .ok .cv2Enc32 ∧
    (waiting (busyWith .lookup 0 0 0 0 0 0 0 []) 7 []).script = [] ∧ 0x0000FF03 < 2 ^ 32 ∧
    decode (BitVec.ofNat 32 0x0000FF03) = .ok (.palSet 0xFF) := by decide

theorem premises_CmdWriteIssuesTheCommand :
    (hostWith [scriptCommand .cv2Dec, .waitIdle]).script = .regWrite 32 0x008 8 :: [.waitIdle] ∧
    (hostWith [scriptCommand .cv2Dec, .waitIdle]).engine = .idle ∧ decode 8 = .ok .cv2Dec ∧
    (waiting (busyWith .lookup 0 0 0 0 0 0 0 []) 1 [scriptCommand .cv2Dec]).engine = .busy ∧
    0 < (waiting (busyWith .lookup 0 0 0 0 0 0 0 []) 1 [scriptCommand .cv2Dec]).wait := by decide

theorem premises_IllegalWordCompletesAtOnce :
    (hostWith [.regWrite 32 0x008 9]).engine = .idle ∧ (hostWith [.regWrite 32 0x008 9]).script = [.regWrite 32 0x008 9] ∧
    wordLegal 9 = false := by decide

theorem premises_WaitingHostSeesCompletion :
    (waiting (encState .cv2Enc8) 0 [.waitIdle]).engine = .busy ∧ (waiting (encState .cv2Enc8) 0 [.waitIdle]).wait = 0 ∧
    (waiting (encState .cv2Enc8) 3 [.waitIdle]).script = [.waitIdle] := ⟨rfl, rfl, rfl⟩

theorem premises_EngineMovesOnlyByCmdWriteCompletionOrReset :
    seen (step (hostWith [scriptCommand .palInval])) (fun t => t.engine) = some .busy ∧
    seen (step (busyWith .palInval 0 0 0 0 0 0 0 [])) (fun t => t.engine) = some .idle ∧
    seen (step (waiting (busyWith .palInval 0 0 0 0 0 0 0 []) 1 [.rst])) (fun t => t.engine) = some .idle := by decide

/-- Entry 1 and 200 of PAL-A hold the same Color, no entry is magenta. -/
theorem premises_FindIndexReturnsLowestMatchOrTidx :
    ((palOf colorA).get 1 = ⟨0, 0, 8, 255⟩ ∧ ∀ j : Fin 256, j < 1 → (palOf colorA).get j ≠ ⟨0, 0, 8, 255⟩) ∧
    ((palOf colorA).get 255 = ⟨0, 56, 248, 255⟩ ∧ ∀ j : Fin 256, j < 255 → (palOf colorA).get j ≠ ⟨0, 56, 248, 255⟩) ∧
    ∀ i : Fin 256, (palOf colorA).get i ≠ ⟨255, 0, 255, 255⟩ := by
  simp only [palOf_get]
  decide +kernel

/-- The last window inside memory ends at 0x10000, and the one after it is outside. -/
theorem premises_PalLoadOutcome :
    ¬ SrcInside (busyWith .palLoad 0xFE00 513 0 0 0 0 0 []) ∧
    (SrcInside (busyWith .palLoad 0xFE00 512 0 0 0 0 0 []) ∧
      (busyWith .palLoad 0xFE00 512 0 0 0 0 0 []).latch.srcLen.toNat < 513) ∧
    (SrcInside (busyWith .palLoad 0xFDFF 513 0 0 0 0 0 []) ∧
      513 ≤ (busyWith .palLoad 0xFDFF 513 0 0 0 0 0 []).latch.srcLen.toNat) ∧
    ((Memory.palWord [] 0xFDFF (255 : Fin 256)).getLsbD 15 = false ∧
      ∀ j : Fin 256, 255 < j → (Memory.palWord [] 0xFDFF j).getLsbD 15 = true) := by
  unfold SrcInside
  decide +kernel

/-- An image whose words all have bit 15 set (V-LD-1). -/
theorem premises_PalLoadOutcome_opaque :
    ∀ i : Fin 256, (Memory.palWord ((List.range 256).map fun k => (0x102 + 2 * k, 0x80)) 0x100 i).getLsbD 15 = true := by
  decide +kernel

theorem premises_PalSaveOutcome :
    (occupied (busyWith .palSave 0 0 0 513 0 0 0 [])).dstOcc = true ∧
    ((busyWith .palSave 0 0 0xFE00 513 0 0 0 []).dstOcc = false ∧
      ¬ DstInside (busyWith .palSave 0 0 0xFE00 513 0 0 0 [])) ∧
    (DstInside (busyWith .palSave 0 0 0xFDFF 513 0 0 0 []) ∧
      (busyWith .palSave 0 0 0xFDFF 513 0 0 0 []).palValid = false) ∧
    (DstInside (withPal colorA 5 (busyWith .palSave 0 0 0xFE00 512 0 0 0 [])) ∧
      (withPal colorA 5 (busyWith .palSave 0 0 0xFE00 512 0 0 0 [])).palValid = true ∧
      (withPal colorA 5 (busyWith .palSave 0 0 0xFE00 512 0 0 0 [])).latch.dstCap.toNat < 513) ∧
    (DstInside (withPal colorA 5 (busyWith .palSave 0 0 0xFDFF 513 0 0 0 [])) ∧
      513 ≤ (withPal colorA 5 (busyWith .palSave 0 0 0xFDFF 513 0 0 0 [])).latch.dstCap.toNat) := by
  unfold DstInside
  decide

theorem premises_PalSetOutcome :
    ¬ SrcInside (busyWith (.palSet 0) 0xFC01 1024 0 0 0 0 0 []) ∧
    (SrcInside (busyWith (.palSet 0) 0xFC01 1023 0 0 0 0 0 []) ∧
      (busyWith (.palSet 0) 0xFC01 1023 0 0 0 0 0 []).latch.srcLen.toNat < 1024) ∧
    (SrcInside (busyWith (.palSet 0) 0xFC00 1024 0 0 0 0 0 []) ∧
      1024 ≤ (busyWith (.palSet 0) 0xFC00 1024 0 0 0 0 0 []).latch.srcLen.toNat) := by
  unfold SrcInside
  decide

theorem premises_PalSwatchOutcome :
    ¬ SrcInside (busyWith .palSwatch 0xFC01 1024 0 0 16 16 0 []) ∧
    (SrcInside (busyWith .palSwatch 0 4096 0 0 16 32 0 []) ∧ (16 : Word) ≠ 32) ∧
    (SrcInside (busyWith .palSwatch 0xFC00 1024 0 0 16 16 0 []) ∧
      (busyWith .palSwatch 0xFC00 1024 0 0 16 16 0 []).latch.width.toNat = 16 * 1 ∧
      16 * 1 * (16 * 1) * 4 ≤ (busyWith .palSwatch 0xFC00 1024 0 0 16 16 0 []).latch.srcLen.toNat) ∧
    (SrcInside (busyWith .palSwatch 0xF000 4096 0 0 32 32 0 []) ∧
      (busyWith .palSwatch 0xF000 4096 0 0 32 32 0 []).latch.height.toNat = 16 * 2 ∧
      16 * 2 * (16 * 2) * 4 ≤ (busyWith .palSwatch 0xF000 4096 0 0 32 32 0 []).latch.srcLen.toNat) ∧
    (busyWith .palSwatch 0xF000 4095 0 0 32 32 0 []).latch.srcLen.toNat < 16 * 2 * (16 * 2) * 4 ∧
    ((255 : Fin 256) ≠ 0 ∧ (255 : Fin 256).val = 15 * 16 + 15 ∧ (1 : Fin 256).val = 0 * 16 + 1) := by
  unfold SrcInside
  decide

/-- COLOR 0xFF080000 is held by PAL-A's entries 1 and 200, COLOR 0xFFFF00FF by none. -/
theorem premises_LookupOutcome :
    (busyWith .lookup 0 0 0 0 0 0 0 []).palValid = false ∧
    (withPal colorA 5 (busyWith .lookup 0 0 0 0 0 0 0 [])).palValid = true ∧
    ((palOf colorA).get 1 = colorOfWord 0xFF080000 ∧
      ∀ j : Fin 256, j < 1 → (palOf colorA).get j ≠ (palOf colorA).get 1) ∧
    ∀ i : Fin 256, (palOf colorA).get i ≠ colorOfWord 0xFFFF00FF := by
  simp only [palOf_get]
  decide +kernel

/-- The state in which PAL_LOAD has loaded an image, and one in which PAL_SAVE then has room. -/
theorem premises_SavedPaletteReproducesLoadedImage : ∃ s u t : State,
    SrcInside s ∧ 513 ≤ s.latch.srcLen.toNat ∧ exec .palLoad s = .next t ∧ u.pal = t.pal ∧ u.palValid = t.palValid ∧
      u.dstOcc = false ∧ DstInside u ∧ 513 ≤ u.latch.dstCap.toNat := by
  have h1 : SrcInside (busyWith .palLoad 0xFDFF 513 0 0 0 0 0 []) := by unfold SrcInside; decide
  have h2 : DstInside (busyWith .palSave 0 0 0xFDFF 513 0 0 0 []) := by unfold DstInside; decide
  exact ⟨busyWith .palLoad 0xFDFF 513 0 0 0 0 0 [],
    { busyWith .palSave 0 0 0xFDFF 513 0 0 0 [] with
      pal := (palLoadEffect (busyWith .palLoad 0xFDFF 513 0 0 0 0 0 [])).pal, palValid := true },
    (palLoadEffect (busyWith .palLoad 0xFDFF 513 0 0 0 0 0 [])).finish .none, h1, by decide, rfl, rfl, rfl, rfl, h2, by decide⟩

/-- The encoder with exactly the room that depth `d` needs, at the end of memory. -/
def tightEnc (i : Instr) (cap : Word) : State :=
  withPal colorA 5 (busyWith i 0x2000 8 (0 - cap &&& 0xFFFF) cap 2 1 0 rasterEnc)

theorem premises_EncodeWritesHeaderAndRegisters :
    (encodeDepth .cv2Enc8 = some .d8 ∧ EncodeReady .d8 (tightEnc .cv2Enc8 19)) ∧
    (encodeDepth .cv2Enc16 = some .d16 ∧ EncodeReady .d16 (tightEnc .cv2Enc16 21)) ∧
    (encodeDepth .cv2Enc24 = some .d24 ∧ EncodeReady .d24 (tightEnc .cv2Enc24 25)) ∧
    (encodeDepth .cv2Enc32 = some .d32 ∧ EncodeReady .d32 (tightEnc .cv2Enc32 25)) := by
  unfold EncodeReady SrcInside DstInside WindowsOverlap
  decide

/-- Pixel (0, 0) of V-ENC-1 is entry 1 and not entry 0; pixel (1, 0) is no entry. -/
theorem premises_Encode8WritesPaletteIndices :
    (CommonPass .cv2Enc8 (busyWith .cv2Enc8 0x2000 8 0x3000 64 2 1 0 rasterEnc) ∧
      (busyWith .cv2Enc8 0x2000 8 0x3000 64 2 1 0 rasterEnc).palValid = false) ∧
    (0 < (tightEnc .cv2Enc8 19).latch.width.toNat ∧ 1 < (tightEnc .cv2Enc8 19).latch.width.toNat ∧
      0 < (tightEnc .cv2Enc8 19).latch.height.toNat) ∧
    ((palOf colorA).get 1 = Memory.color rasterEnc 0x2000 ∧
      ∀ j : Fin 256, j < 1 → (palOf colorA).get j ≠ Memory.color rasterEnc 0x2000) ∧
    ∀ k : Fin 256, (palOf colorA).get k ≠ Memory.color rasterEnc 0x2004 := by
  unfold CommonPass RangeFails SrcInside DstInside WindowsOverlap
  simp only [palOf_get]
  decide +kernel

theorem premises_Encode16WritesPackedColours : EncodeReady .d16 (tightEnc .cv2Enc16 21) ∧
    1 < (tightEnc .cv2Enc16 21).latch.width.toNat ∧ 0 < (tightEnc .cv2Enc16 21).latch.height.toNat :=
  ⟨premises_EncodeWritesHeaderAndRegisters.2.1.2, by decide, by decide⟩

theorem premises_Encode24WritesFourBytesPerPixel : EncodeReady .d24 (tightEnc .cv2Enc24 25) ∧
    1 < (tightEnc .cv2Enc24 25).latch.width.toNat ∧ 0 < (tightEnc .cv2Enc24 25).latch.height.toNat :=
  ⟨premises_EncodeWritesHeaderAndRegisters.2.2.1.2, by decide, by decide⟩

theorem premises_Encode32WritesFourBytesPerPixel : EncodeReady .d32 (tightEnc .cv2Enc32 25) ∧
    1 < (tightEnc .cv2Enc32 25).latch.width.toNat ∧ 0 < (tightEnc .cv2Enc32 25).latch.height.toNat :=
  ⟨premises_EncodeWritesHeaderAndRegisters.2.2.2.2, by decide, by decide⟩

/-- V-ENC-7 to V-ENC-10: one state for each clause of the order. -/
theorem premises_EncodeErrorsInOrder :
    (occupied (encState .cv2Enc32)).dstOcc = true ∧
    RangeFails .cv2Enc32 (busyWith .cv2Enc32 0 8 4 25 2 1 0 []) ∧
    (CommonPass .cv2Enc8 (busyWith .cv2Enc8 0x2000 8 0x3000 64 2 1 0 []) ∧
      (busyWith .cv2Enc8 0x2000 8 0x3000 64 2 1 0 []).palValid = false) ∧
    (CommonPass .cv2Enc32 (busyWith .cv2Enc32 0x2000 8 0x3000 64 0 1 0 []) ∧ s32 0 < 1 ∧ s32 0x80000000 < 1) ∧
    (CommonPass .cv2Enc32 (busyWith .cv2Enc32 0x2000 7 0x3000 64 2 1 0 []) ∧ (7 : Int) < s32 2 * s32 1 * 4 ∧
      s32 2 * s32 1 * 4 ≤ (8 : Int)) ∧
    (CommonPass .cv2Enc32 (busyWith .cv2Enc32 0x2000 8 0x3000 24 2 1 0 []) ∧ (24 : Int) < 17 + s32 2 * s32 1 * 4 ∧
      17 + s32 2 * s32 1 * 4 ≤ (25 : Int)) := by
  refine ⟨rfl, ?_, ⟨pass_of rfl, rfl⟩, ⟨pass_of rfl, ?_⟩, ⟨pass_of rfl, ?_⟩, pass_of rfl, ?_⟩
  · unfold RangeFails SrcInside DstInside WindowsOverlap
    decide
  all_goals decide

/-- The decoder on the source of V-DEC-1, with these lengths. -/
def decState (len cap : Word) (m : Memory) : State := busyWith .cv2Dec 0x100 len 0x400 cap 0 0 0 m

/-- V-DEC-2, V-DEC-6 to V-DEC-11: one state for each clause of the order. -/
theorem premises_DecodeErrorsInOrder :
    (occupied (decState 33 8 sourceDec1)).dstOcc = true ∧
    RangeFails .cv2Dec (busyWith .cv2Dec 0xFFE0 33 0x400 8 0 0 0 []) ∧
    (CommonPass .cv2Dec (decState 16 8 sourceDec1) ∧ (decState 16 8 sourceDec1).latch.srcLen.toNat < 17) ∧
    (CommonPass .cv2Dec (decState 17 8 [(0x100, 7)]) ∧ 17 ≤ (decState 17 8 [(0x100, 7)]).latch.srcLen.toNat ∧
      ∀ d, (decState 17 8 [(0x100, 7)]).mem.read 0x100 ≠ depthByte d) ∧
    (CommonPass .cv2Dec (decState 20 8 sourceDec12) ∧ (decState 20 8 sourceDec12).mem.read 0x100 = depthByte .d8 ∧
      (decState 20 8 sourceDec12).palValid = false) ∧
    (s32 (headerWidth (decState 33 8 (sourceDec1.write 0x101 0))) < 1 ∧
      s32 (headerStride (decState 33 8 (sourceDec1.write 0x109 1))) <
        s32 (headerWidth (decState 33 8 (sourceDec1.write 0x109 1)))) ∧
    (CommonPass .cv2Dec (decState 32 8 sourceDec1) ∧ (decState 32 8 sourceDec1).mem.read 0x100 = depthByte .d32 ∧
      1 ≤ s32 (headerWidth (decState 32 8 sourceDec1)) ∧ 1 ≤ s32 (headerHeight (decState 32 8 sourceDec1)) ∧
      s32 (headerWidth (decState 32 8 sourceDec1)) ≤ s32 (headerStride (decState 32 8 sourceDec1)) ∧
      (32 : Int) - 17 < s32 (headerHeight (decState 32 8 sourceDec1)) *
        s32 (headerStride (decState 32 8 sourceDec1)) * 4) ∧
    (CommonPass .cv2Dec (decState 33 7 sourceDec1) ∧ s32 (headerHeight (decState 33 7 sourceDec1)) *
        s32 (headerStride (decState 33 7 sourceDec1)) * 4 ≤ (33 : Int) - 17 ∧
      (7 : Int) < s32 (headerWidth (decState 33 7 sourceDec1)) * s32 (headerHeight (decState 33 7 sourceDec1)) * 4) ∧
    s32 (headerWidth (decState 33 8 sourceDec1)) * s32 (headerHeight (decState 33 8 sourceDec1)) * 4 ≤ (8 : Int) := by
  refine ⟨rfl, ?_, ⟨pass_of rfl, ?_⟩, ⟨pass_of rfl, ?_, fun d => ?_⟩, ⟨pass_of rfl, ?_⟩, ?_, ⟨pass_of rfl, ?_⟩,
    ⟨pass_of rfl, ?_⟩, ?_⟩
  · unfold RangeFails SrcInside DstInside WindowsOverlap
    decide
  · decide
  · decide
  · cases d <;> decide
  all_goals decide

/-- Sources of each depth, with a stride above the width where the vectors have one; the last pixel of the last row. -/
theorem premises_DecodeOutcome :
    DecodeReady .d32 (decState 33 8 sourceDec1) ∧ DecodeReady .d16 (decState 29 16 sourceDec3) ∧
    DecodeReady .d8 (withPal colorA 5 (decState 20 8 sourceDec12)) ∧
    DecodeReady .d24 (decState 21 4 (bytesAt 0x100 ([0x18, 1, 0, 0, 0, 1, 0, 0, 0, 1, 0, 0, 0, 0, 0, 0, 0] ++ [3, 2, 1, 4]))) ∧
    1 < (headerWidth (decState 29 16 sourceDec3)).toNat ∧ 1 < (headerHeight (decState 29 16 sourceDec3)).toNat := by
  unfold DecodeReady SrcInside DstInside WindowsOverlap
  refine ⟨?_, ?_, ?_, ?_, ?_⟩ <;> decide +kernel

/-- Two memories that differ in the reserved field of V-DEC-1's source only. -/
theorem premises_DecodeIgnoresReservedFieldAndPadding : ∃ (s : State) (m : Memory), DecodeReady .d32 s ∧ m ≠ s.mem ∧
    (∀ k, k < 13 → m.read (s.latch.srcAddr.toNat + k) = s.mem.read (s.latch.srcAddr.toNat + k)) ∧
    ∀ x y k, x < (headerWidth s).toNat → y < (headerHeight s).toNat → k < psize .d32 →
      m.read (s.latch.srcAddr.toNat + 17 + (y * (headerStride s).toNat + x) * psize .d32 + k) =
        s.mem.read (s.latch.srcAddr.toNat + 17 + (y * (headerStride s).toNat + x) * psize .d32 + k) := by
  refine ⟨decState 33 8 sourceDec1, sourceDec1.write 0x10D 9, premises_DecodeOutcome.1, by decide +kernel, ?_, ?_⟩
  · intro k hk
    have ha : (decState 33 8 sourceDec1).latch.srcAddr.toNat = 0x100 := rfl
    rw [Memory.read_write, if_neg (by omega)]
    rfl
  · intro x y k _ _ _
    have ha : (decState 33 8 sourceDec1).latch.srcAddr.toNat = 0x100 := rfl
    rw [Memory.read_write, if_neg (by omega)]
    rfl

/-- V-ENC-4 and a decoder placed on what it wrote. -/
theorem premises_DecodedImageIsTheEncodedRaster : ∃ s t u : State, encodeDepth .cv2Enc32 = some .d32 ∧ EncodeReady .d32 s ∧
    exec .cv2Enc32 s = .next t ∧ u.mem = t.mem ∧ u.pal = t.pal ∧ u.palValid = t.palValid ∧ u.dstOcc = false ∧
    u.latch.srcAddr = s.latch.dstAddr ∧ t.outLen.toNat ≤ u.latch.srcLen.toNat ∧ SrcInside u ∧ DstInside u ∧
    ¬ WindowsOverlap u ∧ s.latch.width.toNat * s.latch.height.toNat * 4 ≤ u.latch.dstCap.toNat := by
  have hr := premises_EncodeWritesHeaderAndRegisters.2.2.2.2
  refine ⟨tightEnc .cv2Enc32 25, (encodeEffect .d32 (tightEnc .cv2Enc32 25)).finish .none,
    withPal colorA 5 (busyWith .cv2Dec 0xFFE7 25 0x100 8 0 0 0 (encodeEffect .d32 (tightEnc .cv2Enc32 25)).mem),
    rfl, hr, ?_, rfl, rfl, rfl, rfl, ?_⟩
  · exact exec_encode_of_ready rfl hr
  · unfold SrcInside DstInside WindowsOverlap
    decide

theorem premises_EveryCommandCompletesOnceAndErrorsChangeOnlyStatus :
    seen (exec .lookup (busyWith .lookup 0 0 0 0 0 0 0 [])) (fun t => t.err) = some .missingPalette ∧
    seen (exec .palInval (busyWith .palInval 0 0 0 0 0 0 0 [])) (fun t => t.err) = some .none := by decide

theorem premises_NeverOverwriteAnOccupiedDestination :
    seen (exec .cv2Dec (occupied (decState 33 8 sourceDec1))) (fun t => t.err) = some .alreadyExists ∧
    seen (exec .cv2Dec (decState 33 8 sourceDec1)) (fun t => (t.err, t.dstOcc)) = some (.none, true) ∧
    seen (exec .palInval (occupied (decState 33 8 []))) (fun t => t.dstOcc) = some true := by decide +kernel

/-- One byte too far, the windows that only touch, and a window of length 0 inside the other. -/
theorem premises_RangeExactlyForIllegalWindows :
    seen (exec (.palSet 0) (busyWith (.palSet 0) 0xFC01 1024 0 0 0 0 0 [])) (fun t => t.err) = some .range ∧
    seen (exec .cv2Enc32 (busyWith .cv2Enc32 0x40 8 0x48 25 2 1 0 [])) (fun t => t.err) = some .none ∧
    seen (exec .cv2Enc32 (busyWith .cv2Enc32 0x40 8 0x47 25 2 1 0 [])) (fun t => t.err) = some .range ∧
    seen (exec .cv2Enc32 (busyWith .cv2Enc32 0x40 8 0x42 0 2 1 0 [])) (fun t => t.err) = some .capacity := by decide

theorem premises_MissingPaletteExactlyForPaletteReaders :
    (CommonPass .palSave (busyWith .palSave 0 0 0 513 0 0 0 []) ∧ CommonPass .lookup (busyWith .lookup 0 0 0 0 0 0 0 []) ∧
      CommonPass .cv2Enc8 (busyWith .cv2Enc8 0x2000 8 0x3000 64 2 1 0 []) ∧
      CommonPass .cv2Dec (decState 17 8 [(0x100, 8)])) ∧
    (decState 17 8 [(0x100, 8)]).palValid = false ∧ 17 ≤ (decState 17 8 [(0x100, 8)]).latch.srcLen.toNat ∧
    (decState 17 8 [(0x100, 8)]).mem.read (decState 17 8 [(0x100, 8)]).latch.srcAddr.toNat = 8 ∧
    seen (exec .cv2Dec (decState 17 8 [(0x100, 8)])) (fun t => t.err) = some .missingPalette :=
  ⟨⟨pass_of rfl, pass_of rfl, pass_of rfl, pass_of rfl⟩, rfl, by decide, by decide, by decide⟩

theorem premises_CommandsWriteOnlyTheirDestination :
    (usesDst .cv2Enc8 = true ∧ seen (exec .cv2Enc8 (tightEnc .cv2Enc8 19)) (fun t => t.err) = some .none) ∧
    (usesDst .palInval = false ∧ seen (exec .palInval (decState 0 0 [])) (fun t => t.err) = some .none) ∧
    seen (exec .cv2Enc8 (tightEnc .cv2Enc8 18)) (fun t => t.err) = some .capacity := by decide +kernel

/-- A memory that differs just before the source window of V-ENC-1, and one that differs just after it. -/
theorem premises_CommandsReadOnlyTheirSource : ∃ m m' : Memory, m ≠ (encState .cv2Enc8).mem ∧ m' ≠ (encState .cv2Enc8).mem ∧
    usesSrc .cv2Enc8 = true ∧ usesDst .cv2Enc8 = true ∧
    ∀ a, (encState .cv2Enc8).latch.srcAddr.toNat ≤ a →
      a < (encState .cv2Enc8).latch.srcAddr.toNat + (encState .cv2Enc8).latch.srcLen.toNat →
      m.read a = (encState .cv2Enc8).mem.read a ∧ m'.read a = (encState .cv2Enc8).mem.read a := by
  refine ⟨rasterEnc.write 0x1FFF 9, rasterEnc.write 0x2008 9, by decide, by decide, rfl, rfl, fun a h1 h2 => ?_⟩
  have e1 : (encState .cv2Enc8).latch.srcAddr.toNat = 0x2000 := rfl
  have e2 : (encState .cv2Enc8).latch.srcLen.toNat = 8 := rfl
  rw [Memory.read_write, if_neg (by omega), Memory.read_write, if_neg (by omega)]
  exact ⟨rfl, rfl⟩

/-- Of an occupied destination: a release, a write with every other bit set, a reset, and a release while a command runs; and
V-ENC-1, which completes, after which the host's next statement is no release. -/
theorem premises_DestinationStaysOccupiedUntilReleased :
    ((0x4 : Word).getLsbD 2 = true ∧ (hostWith [scriptRelease]).engine = .idle) ∧
    (hostWith [scriptRelease]).script = [.regWrite 32 0x004 0x4] ∧
    seen (step (occupied (hostWith [scriptRelease]))) (fun t => t.dstOcc) = some false ∧
    seen (step (occupied (hostWith [scriptWrite .status 0xFFFFFFFB]))) (fun t => t.dstOcc) = some true ∧
    seen (step (occupied (hostWith [.rst]))) (fun t => t.dstOcc) = some false ∧
    seen (step (occupied (waiting (encState .cv2Enc8) 1 [scriptRelease]))) (fun t => t.dstOcc) = some true ∧
    (usesDst .cv2Enc8 = true ∧ usesDst .palSave = true ∧ (∀ v : Word, HostOp.waitIdle ≠ .regWrite 32 0x004 v)) ∧
    seen (exec .cv2Enc8 { encState .cv2Enc8 with script := [.waitIdle] }) (fun t => (t.err, t.dstOcc, t.script)) =
      some (.none, true, [.waitIdle]) ∧
    seen (Host.Core.run Sys2Proof.core 2 { encState .cv2Enc8 with script := [.waitIdle] }) (fun t => t.dstOcc) =
      some true :=
  ⟨by decide, by decide, by decide, by decide, by decide, by decide, ⟨rfl, rfl, fun _ h => by cases h⟩,
    by decide +kernel, by decide +kernel⟩

/-- PAL_SET changes entry 0. -/
theorem premises_PaletteStoreChangesOnlyByPaletteCommands :
    seen (step (busyWith (.palSet 0x2A) 0x20 1024 0 0 0 0 0 (bytesAt 0x20 [1, 2, 3, 4]))) (fun t => t.pal.get 0) =
      some ⟨1, 2, 3, 4⟩ ∧ State.reset.pal.get 0 = ⟨0, 0, 0, 0⟩ := by decide +kernel

/-- Without a palette: a step that goes on, one that faults and one that is refused. -/
theorem premises_UnspecifiedPaletteIsNeverObserved :
    (hostWith [scriptRead (.pal 0)]).palValid = false ∧
    seen (step (hostWith [scriptRead (.pal 0)])) (fun t => t.reads) = some [.word 0] ∧
    (match step (waiting (decState 33 8 []) 1 [.memRead 0x100 1]) with
      | .fault f => f == .bufferHazard
      | .next _ => false
      | .refused _ => false) = true ∧
    (match step (hostWith [.regRead 8 0x400]) with
      | .refused r => r == .busError
      | .next _ => false
      | .fault _ => false) = true := by decide

/-- Each offset of R45 is a multiple of 4, as is an ignored one. -/
theorem premises_RegisterWriteRules :
    ([0x000, 0x004, 0x008, 0x00C, 0x010, 0x014, 0x018, 0x01C, 0x020, 0x02C, 0x03C, 0x7FC] : List (BitVec 11)).all
      (fun off => off.toNat % 4 == 0) = true := by decide

/-- The first and the last entry of the window, with a palette and without. -/
theorem premises_PaletteWindowReadsTheStoreOrZero :
    (0x400 : BitVec 11).toNat = 0x400 + 4 * (0 : Fin 256).val ∧ (0x7FC : BitVec 11).toNat = 0x400 + 4 * (255 : Fin 256).val ∧
    (withPal colorA 5 State.reset).palValid = true ∧ State.reset.palValid = false ∧
    (withPal colorA 5 State.reset).readOffset 0x404 = 0xFF080000 := by decide +kernel

theorem premises_UnmappedOffsetsAndReservedBits :
    0x03C ≤ (0x03C : BitVec 11).toNat ∧ (0x03C : BitVec 11).toNat ≤ 0x3FC ∧
    0x03C ≤ (0x3FC : BitVec 11).toNat ∧ (0x3FC : BitVec 11).toNat ≤ 0x3FC := by decide

theorem premises_OnlyAlignedWordAccessesAreAccepted :
    (hostWith [.regWrite 16 0x000 0]).engineTurn = false ∧ ((16 : Nat) ≠ 32 ∨ (0x000 : BitVec 11).toNat % 4 ≠ 0) ∧
    ((32 : Nat) ≠ 32 ∨ (0x7FF : BitVec 11).toNat % 4 ≠ 0) ∧ (0x7FC : BitVec 11).toNat % 4 = 0 := by decide

/-- A host statement that is no reset. -/
theorem premises_HostCannotWriteReadOnlyRegisters :
    (hostWith [scriptWrite .result 5]).engineTurn = false ∧
    (hostWith [scriptWrite .result 5]).script.head? ≠ some .rst ∧
    seen (step (hostWith [scriptWrite .result 5])) (fun t => t.resultIndex) = some 0 := by decide

/-- Host accesses of one byte: the last of memory while IDLE; then, while V-ENC-1's command runs, the ends of its windows
and the bytes beside them. -/
theorem premises_HostBufferAccessFaultsOnlyInRunningWindows :
    (0xFFFF : Word).toNat + 1 ≤ State.reset.cfg.memSize ∧ (hostWith [.memRead 0xFFFF 1]).engineTurn = false ∧
    (waiting (encState .cv2Enc8) 1 [.memRead 0x2000 1]).engineTurn = false ∧
    ([0x2000, 0x2007, 0x3000, 0x303F] : List Word).all (fun a =>
      match step (waiting (encState .cv2Enc8) 1 [.memRead a 1]) with
      | .fault f => f == .bufferHazard
      | .next _ => false
      | .refused _ => false) = true ∧
    ([0x1FFF, 0x2008, 0x2FFF, 0x3040] : List Word).all (fun a =>
      match step (waiting (encState .cv2Enc8) 1 [.memWrite a [1]]) with
      | .next t => t.mem.read a.toNat == 1
      | .fault _ => false
      | .refused _ => false) = true := by decide

/-- MEM_SIZE is 65536 at reset: the last byte is read, the byte after it and an access across the end fault, and so does one
while a command runs whose windows it does not touch; an access of no byte goes through even there. -/
theorem premises_HostBufferAccessOutsideMemoryFaults :
    seen (step (hostWith [.memRead 0xFFFF 1])) (fun t => t.reads) = some [.bytes [0]] ∧
    ([hostWith [.memRead 0x10000 1], hostWith [.memWrite 0xFFFF [1, 2]], hostWith [.memRead 0xFFFFFFFF 1],
        waiting (encState .cv2Enc8) 1 [.memWrite 0x10000 [1]]] : List State).all (fun s =>
      match step s with
      | .fault f => f == .bufferOutside
      | .next _ => false
      | .refused _ => false) = true ∧
    (hostWith [.memRead 0x10001 0]).engineTurn = false ∧
    seen (step (hostWith [.memRead 0x10001 0])) (fun t => t.reads) = some [.bytes []] ∧
    seen (step (hostWith [.memWrite 0x10001 []])) (fun t => t.mem) = some [] := by decide

theorem premises_HostReadsBackWhatItWrote :
    (hostWith [.memWrite 0xFFFE [1, 2], .memRead 0xFFFE 2]).engine = .idle ∧
    (hostWith [.memWrite 0xFFFE [1, 2], .memRead 0xFFFE 2]).script = [.memWrite 0xFFFE [1, 2], .memRead 0xFFFE 2] ∧
    (0xFFFE : Word).toNat + [1, 2].length ≤ State.reset.cfg.memSize := by decide

/-- The host sets IE while DONE is 1, acknowledges, and issues a command. -/
theorem premises_InterruptFollowsDone :
    (({ State.reset with done := true }).writeOffset 0x000 1).irq = true ∧ State.reset.engine = .idle ∧
    (0x2 : Word).getLsbD 1 = true ∧
    (({ State.reset with ie := true, done := true }).writeOffset 0x004 0x2).irq = false ∧
    (({ State.reset with ie := true, done := true }).writeOffset 0x008 6).irq = false := by decide

theorem premises_ResetPulseClearsEveryRegister :
    (hostWith [.rst]).engineTurn = false ∧ (hostWith [.rst]).script = [.rst] ∧ (hostWith [.rst]).engine = .idle ∧
    (waiting (encState .cv2Enc8) 2 [.rst]).engineTurn = false := by decide

/-- A running command with a destination window, and one without. -/
theorem premises_ResetWhileBusyTouchesOnlyTheDestination :
    ((waiting (encState .cv2Enc8) 2 [.rst]).engine = .busy ∧ (waiting (encState .cv2Enc8) 2 [.rst]).engineTurn = false ∧
      decode (waiting (encState .cv2Enc8) 2 [.rst]).latch.cmd = .ok .cv2Enc8 ∧ usesDst .cv2Enc8 = true) ∧
    decode (waiting (busyWith .lookup 0 0 0 0 0 0 0 []) 1 [.rst]).latch.cmd = .ok .lookup ∧ usesDst .lookup = false := by
  decide

theorem premises_EndedRunStaysEnded : State.ended State.reset ∧ State.ended (withPal colorA 5 (hostWith [])) :=
  ⟨⟨rfl, rfl⟩, rfl, rfl⟩

/-- The invariant holds of a machine that runs V-DEC-1, whose step goes on. -/
theorem premises_EveryStepKeepsTheInvariant :
    State.Inv (decState 33 8 sourceDec1) ∧ seen (step (decState 33 8 sourceDec1)) (fun t => t.done) = some true := by
  unfold State.Inv
  refine ⟨⟨by decide, by decide, fun _ => ⟨rfl, rfl, rfl⟩, fun _ => rfl, fun _ => rfl, fun _ => rfl, .inl rfl, by decide⟩, ?_⟩
  decide +kernel

theorem premises_ParametersNeverChange :
    seen (step { hostWith [.rst] with cfg := ⟨1023, 0xFFFFFF⟩ }) (fun t => t.cfg) = some ⟨1023, 0xFFFFFF⟩ := by decide

end Sys2Proof.Tests
end

/-! SUPPORT. The named parameters MEM_SIZE and SWATCH_INDEX0_RGB (00_scope.md R5): no operation on the state writes them. -/

namespace Sys2Proof.Machine

/-! ### The parameters under the engine's operations -/

@[simp] theorem effectOf_cfg (i : Instr) (s : State) : (effectOf i s).cfg = s.cfg := by
  cases i
  case cv2Dec => simp only [effectOf, decodeEffect]; split <;> rfl
  all_goals rfl

theorem exec_cfg {i : Instr} {s t : State} (h : exec i s = .next t) : t.cfg = s.cfg := by
  rcases exec_cases i s with ⟨e, _, h'⟩ | ⟨_, h'⟩ <;> rw [h] at h' <;> cases h'
  · exact State.finish_cfg s e
  · exact effectOf_cfg i s

/-! ### The parameters under the host's operations -/

@[simp] theorem State.issue_cfg (s : State) (v : Word) : (s.issue v).cfg = s.cfg := by
  unfold State.issue; split <;> rfl

@[simp] theorem State.writeReg_cfg (s : State) (r : Reg) (v : Word) : (s.writeReg r v).cfg = s.cfg := by
  cases r
  case cmd => exact State.issue_cfg s v
  all_goals rfl

@[simp] theorem State.writeOffset_cfg (s : State) (off : BitVec 11) (v : Word) : (s.writeOffset off v).cfg = s.cfg := by
  unfold State.writeOffset
  split
  · rfl
  · split
    · exact State.writeReg_cfg s _ v
    · rfl

@[simp] theorem hostWait_cfg (s : State) : (hostWait s).cfg = s.cfg := by
  unfold hostWait; split <;> rfl

@[simp] theorem State.abandon_cfg (s : State) : s.abandon.cfg = s.cfg := by
  unfold State.abandon
  split
  · split <;> rfl
  · rfl

/-- The reset input resets registers, not parameters (R340, assumption 10). -/
@[simp] theorem State.pulseReset_cfg (s : State) : s.pulseReset.cfg = s.cfg := State.abandon_cfg s

@[simp] theorem State.hostTurn_cfg (s : State) (rest : List HostOp) : (s.hostTurn rest).cfg = s.cfg := rfl

theorem hostPerform_cfg {s t : State} {op : HostOp} (h : hostPerform s op = .next t) : t.cfg = s.cfg := by
  rcases hostPerform_cases h with ⟨_, off, v, _, _, rfl⟩ | ⟨_, _, _, _, rfl⟩ | ⟨_, _, _, _, rfl⟩ | ⟨_, _, _, rfl⟩ |
    ⟨_, rfl⟩ | ⟨_, rfl⟩
  · exact State.writeOffset_cfg s off v
  · rfl
  · rfl
  · rfl
  · exact hostWait_cfg s
  · exact State.pulseReset_cfg s

/-! ### The parameters under a step -/

theorem step_cfg {s t : State} (h : step s = .next t) : t.cfg = s.cfg := by
  rcases step_cases h with ⟨_, _, _, hexec⟩ | ⟨_, _, _, rfl⟩ | ⟨_, _, rfl⟩ | ⟨_, _, rest, _, hhost⟩
  · exact exec_cfg hexec
  · exact State.finish_cfg s .illegalCmd
  · rfl
  · exact (hostPerform_cfg hhost).trans (State.hostTurn_cfg s rest)

end Sys2Proof.Machine

/-- Settles O55, by the cases of a step: a command's completion, an illegal word's, the end of a run, a host statement. -/
theorem parametersNeverChange : Obligations.ParametersNeverChange := by
  unfold Obligations.ParametersNeverChange
  intro _ _ h
  exact Sys2Proof.Machine.step_cfg h

/-! SUPPORT. The register map in both directions, and what a host statement leaves unchanged (10_state.md R32, R45). -/

namespace Sys2Proof.Machine

/-- Two states with the same read-only registers, palette flags and palette store (R32). -/
structure SameReadOnly (s t : State) : Prop where
  stride : t.stride = s.stride
  depth : t.depth = s.depth
  resultIndex : t.resultIndex = s.resultIndex
  resultHit : t.resultHit = s.resultHit
  tidx : t.tidx = s.tidx
  outLen : t.outLen = s.outLen
  palValid : t.palValid = s.palValid
  tvalid : t.tvalid = s.tvalid
  pal : t.pal = s.pal

/-! ### The register map (R32) -/

theorem regOffset_pal_toNat (i : Byte) : (regOffset (.pal i)).toNat = 0x400 + 4 * i.toNat := by
  have hi := i.isLt
  have h8 : (1#1 ++ i : BitVec 9).toNat = 256 + i.toNat := by
    rw [BitVec.toNat_append, ← Nat.shiftLeft_add_eq_or_of_lt hi]
    rfl
  show (1#1 ++ i ++ 0#2).toNat = _
  rw [BitVec.toNat_append, h8, ← Nat.shiftLeft_add_eq_or_of_lt (by decide), Nat.shiftLeft_eq]
  simp only [BitVec.toNat_ofNat]
  omega

/-- Every register stands at its own offset. -/
theorem regAt_regOffset (r : Reg) : regAt (regOffset r) = some r := by
  cases r
  case pal i =>
    have hoff := regOffset_pal_toNat i
    rw [regAt, if_pos (by omega)]
    congr 2
    apply BitVec.eq_of_toNat_eq
    rw [BitVec.extractLsb'_toNat, Nat.shiftRight_eq_div_pow, hoff]
    have := i.isLt
    omega
  all_goals rfl

/-- At a multiple of 4 stands the register whose offset it is, or none. -/
theorem regAt_eq_some_iff {off : BitVec 11} (hal : off.toNat % 4 = 0) {r : Reg} :
    regAt off = some r ↔ off = regOffset r := by
  refine ⟨fun h => ?_, fun h => h ▸ regAt_regOffset r⟩
  apply BitVec.eq_of_toNat_eq
  unfold regAt at h
  split at h
  · cases h
    rw [regOffset_pal_toNat, BitVec.extractLsb'_toNat, Nat.shiftRight_eq_div_pow]
    have := off.isLt
    omega
  · split at h <;> cases h <;> assumption

/-- No register stands at 0x03C to 0x3FC (R48). -/
theorem regAt_unmapped {off : BitVec 11} (hlo : 0x03C ≤ off.toNat) (hhi : off.toNat ≤ 0x3FC) : regAt off = none := by
  unfold regAt
  rw [if_neg (by omega)]
  split <;> first | rfl | omega

/-- A well-formed access is 32 bits wide at a multiple of 4 (R47). -/
theorem accessWellFormed_iff {width : Nat} {off : BitVec 11} :
    accessWellFormed width off = true ↔ width = 32 ∧ off.toNat % 4 = 0 := by
  simp [accessWellFormed]

/-! ### Register writes -/

theorem SameReadOnly.refl (s : State) : SameReadOnly s s := ⟨rfl, rfl, rfl, rfl, rfl, rfl, rfl, rfl, rfl⟩

/-- A write to CMD accepts the word and sets the latency (R121; assumption 8). -/
theorem State.issue_eq (s : State) (v : Word) :
    ∃ w l, s.issue v = { s.accept v with wait := w, latencies := l } := by
  unfold State.issue
  split
  · exact ⟨_, _, rfl⟩
  · exact ⟨0, s.latencies, rfl⟩

/-- Apart from CMD, a register write starts no command and leaves ERR. -/
theorem State.writeReg_engine {r : Reg} (hr : r ≠ .cmd) (s : State) (v : Word) :
    (s.writeReg r v).engine = s.engine ∧ (s.writeReg r v).wait = s.wait ∧ (s.writeReg r v).err = s.err := by
  cases r
  case cmd => exact absurd rfl hr
  all_goals exact ⟨rfl, rfl, rfl⟩

theorem State.writeReg_sameReadOnly (s : State) (r : Reg) (v : Word) : SameReadOnly s (s.writeReg r v) := by
  cases r
  case cmd =>
    obtain ⟨w, l, h⟩ := s.issue_eq v
    rw [State.writeReg, h]
    constructor <;> rfl
  all_goals constructor <;> rfl

theorem State.writeReg_mem (s : State) (r : Reg) (v : Word) : (s.writeReg r v).mem = s.mem := by
  cases r
  case cmd =>
    obtain ⟨w, l, h⟩ := s.issue_eq v
    rw [State.writeReg, h]
    rfl
  all_goals rfl

/-- Everything a register write can do: nothing while BUSY; a command's issue while IDLE at 0x008; or, while IDLE, some write
that starts nothing. -/
theorem State.writeOffset_cases (s : State) {off : BitVec 11} (hal : off.toNat % 4 = 0) (v : Word) :
    s.writeOffset off v = s ∨
    (s.engine = .idle ∧ off = 0x008 ∧ s.writeOffset off v = s.issue v) ∨
    (s.engine = .idle ∧ ∃ r, r ≠ .cmd ∧ off = regOffset r ∧ s.writeOffset off v = s.writeReg r v) := by
  cases he : s.engine with
  | busy => exact .inl (writeOffset_busy he off v)
  | idle =>
    rw [writeOffset_idle he]
    cases hr : regAt off with
    | none => exact .inl rfl
    | some r =>
      have hoff := (regAt_eq_some_iff hal).mp hr
      by_cases hc : r = .cmd
      · subst hc
        exact .inr (.inl ⟨rfl, hoff, rfl⟩)
      · exact .inr (.inr ⟨rfl, r, hc, hoff, rfl⟩)

theorem State.writeOffset_sameReadOnly (s : State) (off : BitVec 11) (v : Word) :
    SameReadOnly s (s.writeOffset off v) := by
  unfold State.writeOffset
  split
  · exact SameReadOnly.refl s
  · split
    · exact State.writeReg_sameReadOnly s _ v
    · exact SameReadOnly.refl s

end Sys2Proof.Machine

/-! SUPPORT. The palette store while PAL_VALID is 0 (93_implementation_defined.md I4): another content of the store is carried
along by every operation, or forgotten, and never reaches anything else. -/

namespace Sys2Proof.Machine

/-- The state with another palette store. -/
def State.withStore (s : State) (p : Vector Color 256) : State := { s with pal := p }

/-- How the outcome `o'` from a state with store `p` answers the outcome `o` from the state itself: it is the same outcome, or
both go on without a palette and the store is still the only difference. -/
def HidesStore (p : Vector Color 256) (o o' : Host.Outcome State Fault Refusal) : Prop :=
  o' = o ∨ ∃ t, o = .next t ∧ t.palValid = false ∧ o' = .next (t.withStore p)

theorem hidesStore_of_next {p : Vector Color 256} {t : State} (h : t.palValid = false) :
    HidesStore p (.next t) (.next (t.withStore p)) :=
  .inr ⟨t, rfl, h, rfl⟩

/-! ### The store under a command -/

/-- No check looks at the palette store. -/
theorem checks_withStore (i : Instr) (s : State) (p : Vector Color 256) :
    commonChecks i (s.withStore p) ++ ownChecks i (s.withStore p) = commonChecks i s ++ ownChecks i s := by
  cases i <;> rfl

/-- PACK_n looks at the palette store for an index only (R223-R226). -/
theorem packPixel_store {d : Depth} (hd : d ≠ .d8) (pal pal' : Vector Color 256) (tidx : Byte) (c : Color) :
    packPixel d pal tidx c = packPixel d pal' tidx c := by
  cases d
  case d8 => exact absurd rfl hd
  all_goals rfl

/-- UNPACK_d looks at the palette store for an index only (R258-R260). -/
theorem unpackPixel_store {d : Depth} (hd : d ≠ .d8) (pal pal' : Vector Color 256) (m : Memory) (a : Nat) :
    unpackPixel d pal m a = unpackPixel d pal' m a := by
  cases d
  case d8 => exact absurd rfl hd
  all_goals rfl

theorem encodeEffect_withStore {d : Depth} (hd : d ≠ .d8) (s : State) (p : Vector Color 256) :
    encodeEffect d (s.withStore p) = (encodeEffect d s).withStore p := by
  have himg : encodeImage d (s.withStore p) = encodeImage d s := by
    unfold encodeImage encodeBody
    simp only [packPixel_store hd (s.withStore p).pal s.pal]
    rfl
  unfold encodeEffect
  rw [himg]
  rfl

theorem decodeWrites_withStore {d : Depth} (hd : d ≠ .d8) (s : State) (p : Vector Color 256) :
    decodeWrites d (s.withStore p) = (decodeWrites d s).withStore p := by
  have himg : decodeImage d (s.withStore p) = decodeImage d s := by
    unfold decodeImage decodeBody
    simp only [unpackPixel_store hd (s.withStore p).pal s.pal]
    rfl
  unfold decodeWrites
  rw [himg]
  rfl

/-- Without a palette a command that no check stops is none of those that read the store (R306): its writes do not look at the
store, and they leave it or write it whole. -/
theorem effectOf_withStore {i : Instr} {s : State} (hv : s.palValid = false)
    (h : firstError (commonChecks i s ++ ownChecks i s) = none) (p : Vector Color 256) :
    effectOf i (s.withStore p) = effectOf i s ∨
      ((effectOf i s).palValid = false ∧ effectOf i (s.withStore p) = (effectOf i s).withStore p) := by
  have hown := firstError_eq_none.mp (checks_pass h).2
  have hencode : ∀ d, encodeDepth i = some d → (effectOf i s).palValid = false ∧
      effectOf i (s.withStore p) = (effectOf i s).withStore p := by
    intro d hd
    obtain ⟨_, _, _, _, hpal, _⟩ := encodeReady_of_checks hd h
    have hd8 : d ≠ .d8 := fun h8 => by simp [hpal h8] at hv
    rw [(own_of_encodeDepth hd).2]
    exact ⟨hv, encodeEffect_withStore hd8 s p⟩
  cases i with
  | palLoad => exact .inl rfl
  | palSet t => exact .inl rfl
  | palSwatch => exact .inl rfl
  | palInval => exact .inl rfl
  | palSave => simp [ownChecks, palSaveChecks, hv] at hown
  | lookup => simp [ownChecks, lookupChecks, hv] at hown
  | cv2Enc8 => exact .inr (hencode .d8 rfl)
  | cv2Enc16 => exact .inr (hencode .d16 rfl)
  | cv2Enc24 => exact .inr (hencode .d24 rfl)
  | cv2Enc32 => exact .inr (hencode .d32 rfl)
  | cv2Dec =>
    obtain ⟨d, hready⟩ := decodeReady_of_checks h
    obtain ⟨_, _, _, _, _, hbyte, hpal, _⟩ := hready
    have hd8 : d ≠ .d8 := fun h8 => by simp [hpal h8] at hv
    have hdep : headerDepth s = some d := headerDepth_eq_some.mpr hbyte
    have hdep' : headerDepth (s.withStore p) = some d := hdep
    simp only [effectOf, decodeEffect, hdep, hdep']
    exact .inr ⟨hv, decodeWrites_withStore hd8 s p⟩

theorem exec_withStore {s : State} (hv : s.palValid = false) (i : Instr) (p : Vector Color 256) :
    HidesStore p (exec i s) (exec i (s.withStore p)) := by
  rw [exec_eq, exec_eq, checks_withStore]
  cases h : firstError (commonChecks i s ++ ownChecks i s) with
  | some e =>
    rw [runCommand_of_some h, runCommand_of_some h]
    exact hidesStore_of_next (t := s.finish e) hv
  | none =>
    rw [runCommand_of_none h, runCommand_of_none h]
    rcases effectOf_withStore hv h p with heq | ⟨hv', heq⟩
    · exact .inl (by rw [heq])
    · rw [heq]
      exact hidesStore_of_next (t := (effectOf i s).finish .none) hv'

theorem engineStep_withStore {s : State} (hv : s.palValid = false) (p : Vector Color 256) :
    HidesStore p (engineStep s) (engineStep (s.withStore p)) := by
  cases hd : decode s.latch.cmd with
  | ok i =>
    rw [engineStep_ok hd, engineStep_ok (s := s.withStore p) hd]
    exact exec_withStore hv i p
  | error r =>
    rw [engineStep_error hd, engineStep_error (s := s.withStore p) hd]
    exact hidesStore_of_next (t := s.finish .illegalCmd) hv

/-! ### The store under a host statement -/

theorem State.issue_withStore (s : State) (v : Word) (p : Vector Color 256) :
    (s.withStore p).issue v = (s.issue v).withStore p := by
  unfold State.issue
  cases decode v <;> rfl

theorem State.writeReg_withStore (s : State) (r : Reg) (v : Word) (p : Vector Color 256) :
    (s.withStore p).writeReg r v = (s.writeReg r v).withStore p := by
  cases r
  case cmd => exact State.issue_withStore s v p
  all_goals rfl

theorem State.writeOffset_withStore (s : State) (off : BitVec 11) (v : Word) (p : Vector Color 256) :
    (s.withStore p).writeOffset off v = (s.writeOffset off v).withStore p := by
  cases hb : s.engine with
  | busy => rw [writeOffset_busy hb, writeOffset_busy (s := s.withStore p) hb]
  | idle =>
    rw [writeOffset_idle hb, writeOffset_idle (s := s.withStore p) hb]
    cases regAt off with
    | none => rfl
    | some r => exact State.writeReg_withStore s r v p

/-- Without a palette a host read shows nothing of the store (R50). -/
theorem State.readOffset_withStore {s : State} (hv : s.palValid = false) (off : BitVec 11) (p : Vector Color 256) :
    (s.withStore p).readOffset off = s.readOffset off := by
  unfold State.readOffset
  cases regAt off with
  | none => rfl
  | some r =>
    cases r
    case pal j =>
      have hv' : (s.withStore p).palValid = false := hv
      simp [State.readReg, hv, hv']
    all_goals rfl

theorem hostWait_withStore (s : State) (p : Vector Color 256) :
    hostWait (s.withStore p) = (hostWait s).withStore p := by
  simp only [hostWait, show (s.withStore p).isBusy = s.isBusy from rfl]
  split <;> rfl

/-- A reset forgets the store (R341). -/
theorem State.pulseReset_withStore (s : State) (p : Vector Color 256) :
    (s.withStore p).pulseReset = s.pulseReset := by
  have hab : (s.withStore p).abandon = s.abandon.withStore p := by
    unfold State.abandon
    rw [show (s.withStore p).isBusy = s.isBusy from rfl, show (s.withStore p).running = s.running from rfl]
    split
    · split <;> rfl
    · rfl
  unfold State.pulseReset
  rw [hab]
  rfl

theorem hostMemAccess_withStore {s t : State} (hv : t.palValid = false) (w : Window) (p : Vector Color 256) :
    HidesStore p (hostMemAccess s w t) (hostMemAccess (s.withStore p) w (t.withStore p)) := by
  rcases hostMemAccess_cases (s := s) (s' := s.withStore p) rfl rfl w t (t.withStore p) with ⟨h, h'⟩ | ⟨f, h, h'⟩
  · rw [h, h']
    exact hidesStore_of_next hv
  · rw [h, h']
    exact .inl rfl

theorem hostPerform_withStore {s : State} (hv : s.palValid = false) (op : HostOp) (p : Vector Color 256) :
    HidesStore p (hostPerform s op) (hostPerform (s.withStore p) op) := by
  cases op with
  | regWrite width off v =>
    simp only [hostPerform, hostRegWrite]
    split
    · rw [State.writeOffset_withStore]
      exact hidesStore_of_next ((s.writeOffset_sameReadOnly off v).palValid.trans hv)
    · exact .inl rfl
  | regRead width off =>
    simp only [hostPerform, hostRegRead, State.readOffset_withStore hv]
    split
    · exact hidesStore_of_next (t := { s with reads := .word (s.readOffset off) :: s.reads }) hv
    · exact .inl rfl
  | memWrite addr bs =>
    exact hostMemAccess_withStore (t := { s with mem := s.mem.writeBytes addr.toNat bs }) hv _ p
  | memRead addr n =>
    exact hostMemAccess_withStore (t := { s with reads := .bytes (s.mem.readBytes addr.toNat n) :: s.reads }) hv _ p
  | waitIdle =>
    have hv' : (hostWait s).palValid = false := by
      unfold hostWait
      split <;> exact hv
    simp only [hostPerform, hostWait_withStore]
    exact hidesStore_of_next hv'
  | rst =>
    simp only [hostPerform, State.pulseReset_withStore]
    exact .inl rfl

/-! ### The store under a step -/

theorem step_withStore {s : State} (hv : s.palValid = false) (p : Vector Color 256) :
    HidesStore p (step s) (step (s.withStore p)) := by
  cases ht : s.engineTurn with
  | true =>
    rw [step_engine ht, step_engine (s := s.withStore p) ht]
    exact engineStep_withStore hv p
  | false =>
    cases hs : s.script with
    | nil =>
      rw [step_of_script_nil ht hs, step_of_script_nil (s := s.withStore p) ht hs]
      exact hidesStore_of_next hv
    | cons op rest =>
      rw [step_host_cons ht hs, step_host_cons (s := s.withStore p) ht hs]
      exact hostPerform_withStore (s := s.hostTurn rest) hv op p

end Sys2Proof.Machine

section
open Sys2Proof.Machine

/-- Settles O39: a step without a palette carries another store along as the only difference, or forgets it. -/
theorem unspecifiedPaletteIsNeverObserved : Obligations.UnspecifiedPaletteIsNeverObserved := by
  unfold Obligations.UnspecifiedPaletteIsNeverObserved
  intro s p hv
  change (∀ t, step s = .next t → ∃ t', step (s.withStore p) = .next t' ∧ _) ∧
    (∀ f, step s = .fault f → step (s.withStore p) = .fault f) ∧
    (∀ r, step s = .refused r → step (s.withStore p) = .refused r)
  rcases step_withStore hv p with heq | ⟨u, hu, huv, hu'⟩
  · rw [heq]
    exact ⟨fun t ht => ⟨t, ht, rfl, fun _ => rfl⟩, fun _ hf => hf, fun _ hr => hr⟩
  · refine ⟨fun t ht => ?_, fun f hf => ?_, fun r hr => ?_⟩
    · rw [hu] at ht
      cases ht
      exact ⟨_, hu', rfl, fun ht => by simp [huv] at ht⟩
    · simp [hu] at hf
    · simp [hu] at hr

end

/-! SUPPORT. The invariant of the machine (State.Inv): what a command writes where no check stops it, and what each host
statement keeps. -/

namespace Sys2Proof.Machine

/-! ### The two halves of the invariant -/

/-- The data half: memory, the palette flags, DEPTH and OUT_LEN. -/
def State.DataInv (s : State) : Prop :=
  s.mem.wf = true ∧ s.mem.within s.cfg.memSize = true ∧
  (s.palValid = false → s.tvalid = false) ∧ (s.tvalid = false → s.tidx = 0) ∧
  (s.depth = 0 ∨ s.depth = 8 ∨ s.depth = 16 ∨ s.depth = 24 ∨ s.depth = 32) ∧
  s.outLen.toNat ≤ s.cfg.memSize

/-- The control half: what BUSY and IDLE say of DONE, ERR, the latched operands and the latency. -/
def State.ControlInv (s : State) : Prop :=
  (s.engine = .busy → s.done = false ∧ s.err = .none ∧ s.latch = s.operands s.cmd) ∧ (s.engine = .idle → s.wait = 0)

theorem State.inv_iff {s : State} : s.Inv ↔ s.DataInv ∧ s.ControlInv := by
  unfold State.Inv State.DataInv State.ControlInv
  tauto

/-- Completion makes the engine IDLE with no latency left. -/
theorem State.finish_controlInv (s : State) (e : ErrCode) : (s.finish e).ControlInv :=
  ⟨nofun, fun _ => rfl⟩

/-! ### The data a command writes -/

theorem dstInside_of_commonPass {i : Instr} {s : State} (hu : usesDst i = true) (h : CommonPass i s) : DstInside s := by
  by_contra hd
  exact h.2 (.inr (.inl ⟨hu, hd⟩))

theorem depthByte_legal (d : Depth) : depthByte d = 0 ∨ depthByte d = 8 ∨ depthByte d = 16 ∨ depthByte d = 24 ∨
    depthByte d = 32 := by
  cases d <;> decide

/-- OUT_LEN cut to 32 bits is at most the number of bytes written. -/
theorem toNat_ofNat_le {n m : Nat} (h : n ≤ m) : (BitVec.ofNat 32 n).toNat ≤ m := by
  rw [BitVec.toNat_ofNat]
  exact (Nat.mod_le _ _).trans h

/-- An image written at DST_ADDR that fits DST_CAP keeps memory canonical and inside its bounds. -/
theorem writeDst_mem {s : State} (h : s.DataInv) (hd : DstInside s) {bs : List Byte}
    (hbs : bs.length ≤ s.latch.dstCap.toNat) :
    (s.mem.writeBytes s.dstWindow.base bs).wf = true ∧
      (s.mem.writeBytes s.dstWindow.base bs).within s.cfg.memSize = true := by
  obtain ⟨hwf, hin, _⟩ := h
  unfold DstInside at hd
  exact ⟨Memory.wf_writeBytes _ _ hwf, Memory.within_writeBytes _ (.inl (by rw [State.dstWindow_base]; omega)) hin⟩

theorem encodeEffect_dataInv {d : Depth} {s : State} (h : s.DataInv) (hready : EncodeReady d s) :
    (encodeEffect d s).DataInv := by
  obtain ⟨_, _, hd, _, _, _, _, _, hcap⟩ := hready
  obtain ⟨hwf, hin⟩ := writeDst_mem h hd (bs := encodeImage d s) (by rw [encodeImage_length]; exact hcap)
  obtain ⟨_, _, hpv, htv, _, _⟩ := h
  unfold DstInside at hd
  exact ⟨hwf, hin, hpv, htv, depthByte_legal d, toNat_ofNat_le (by simp only [cv2Size, encodeEffect_cfg]; omega)⟩

theorem decodeWrites_dataInv {d : Depth} {s : State} (h : s.DataInv) (hready : DecodeReady d s) :
    (decodeWrites d s).DataInv := by
  have hst := headerWidth_le_headerStride hready
  obtain ⟨_, _, hd, _, _, _, _, _, _, _, _, hcap⟩ := hready
  obtain ⟨hwf, hin⟩ := writeDst_mem h hd (bs := decodeImage d s)
    (by rw [decodeImage, decodeBody_length _ _ _ _ _ _ hst]; exact hcap)
  obtain ⟨_, _, hpv, htv, _, _⟩ := h
  unfold DstInside at hd
  exact ⟨hwf, hin, hpv, htv, depthByte_legal d, toNat_ofNat_le (by rw [decodeWrites_cfg]; omega)⟩

theorem palSaveEffect_dataInv {s : State} (h : s.DataInv) (hd : DstInside s) (hcap : 513 ≤ s.latch.dstCap.toNat) :
    (palSaveEffect s).DataInv := by
  obtain ⟨hwf, hin⟩ := writeDst_mem h hd (bs := palImage s.pal) (by rw [palImage_length]; exact hcap)
  obtain ⟨_, _, hpv, htv, hdep, _⟩ := h
  unfold DstInside at hd
  have h513 : (513 : Word).toNat = 513 := rfl
  refine ⟨hwf, hin, hpv, htv, hdep, ?_⟩
  rw [palSaveEffect_outLen, palSaveEffect_cfg]
  omega

theorem effectOf_dataInv {i : Instr} {s : State} (h : s.DataInv)
    (hc : firstError (commonChecks i s ++ ownChecks i s) = none) : (effectOf i s).DataInv := by
  have hencode : ∀ d, encodeDepth i = some d → (effectOf i s).DataInv := fun d hd => by
    rw [(own_of_encodeDepth hd).2]
    exact encodeEffect_dataInv h (encodeReady_of_checks hd hc)
  obtain ⟨hcommon, hown⟩ := checks_pass hc
  have hown := firstError_eq_none.mp hown
  have ⟨hwf, hin, _, _, hdep, hout⟩ := h
  cases i with
  | palLoad => exact ⟨hwf, hin, nofun, transparentFold_index_zero _ _ _ fun _ => rfl, hdep, hout⟩
  | palSet t => exact ⟨hwf, hin, nofun, nofun, hdep, hout⟩
  | palSwatch => exact ⟨hwf, hin, nofun, nofun, hdep, hout⟩
  | palInval => exact ⟨hwf, hin, fun _ => rfl, fun _ => rfl, hdep, hout⟩
  | lookup => exact h
  | palSave =>
    simp only [ownChecks, palSaveChecks, List.mem_cons, List.not_mem_nil, or_false, forall_eq_or_imp, forall_eq,
      decide_eq_false_iff_not, Nat.not_lt] at hown
    exact palSaveEffect_dataInv h (dstInside_of_commonPass rfl hcommon) hown.2
  | cv2Enc8 => exact hencode .d8 rfl
  | cv2Enc16 => exact hencode .d16 rfl
  | cv2Enc24 => exact hencode .d24 rfl
  | cv2Enc32 => exact hencode .d32 rfl
  | cv2Dec =>
    obtain ⟨d, hready⟩ := decodeReady_of_checks hc
    obtain ⟨_, _, _, _, _, hbyte, _⟩ := id hready
    simp only [effectOf, decodeEffect, headerDepth_eq_some.mpr hbyte]
    exact decodeWrites_dataInv h hready

theorem exec_inv {i : Instr} {s t : State} (h : s.DataInv) (hx : exec i s = .next t) : t.Inv := by
  rw [State.inv_iff]
  rcases exec_cases i s with ⟨e, _, h'⟩ | ⟨hc, h'⟩ <;> rw [hx] at h' <;> cases h'
  · exact ⟨h, s.finish_controlInv e⟩
  · exact ⟨effectOf_dataInv h hc, (effectOf i s).finish_controlInv .none⟩

/-! ### What a host statement keeps -/

/-- A state with the same memory, parameters and read-only registers has the same data. -/
theorem SameReadOnly.dataInv {s t : State} (h : SameReadOnly s t) (hmem : t.mem = s.mem) (hcfg : t.cfg = s.cfg)
    (hs : s.DataInv) : t.DataInv := by
  unfold State.DataInv
  rw [hmem, hcfg, h.depth, h.tidx, h.outLen, h.palValid, h.tvalid]
  exact hs

/-- Issuing a command latches the registers and clears ERR and DONE (R121). -/
theorem State.issue_controlInv (s : State) (v : Word) : (s.issue v).ControlInv := by
  obtain ⟨w, l, h⟩ := s.issue_eq v
  rw [h]
  exact ⟨fun _ => ⟨rfl, rfl, rfl⟩, nofun⟩

theorem State.writeOffset_inv {s : State} (h : s.Inv) {off : BitVec 11} (hal : off.toNat % 4 = 0) (v : Word) :
    (s.writeOffset off v).Inv := by
  obtain ⟨hdata, hcontrol⟩ := State.inv_iff.mp h
  rcases s.writeOffset_cases hal v with heq | ⟨_, _, heq⟩ | ⟨hidle, r, hr, _, heq⟩
  · rwa [heq]
  · rw [heq, State.inv_iff]
    exact ⟨(s.writeReg_sameReadOnly .cmd v).dataInv (s.writeReg_mem .cmd v) (s.writeReg_cfg .cmd v) hdata,
      s.issue_controlInv v⟩
  · rw [heq, State.inv_iff]
    obtain ⟨hengine, hwait, _⟩ := State.writeReg_engine hr s v
    refine ⟨(s.writeReg_sameReadOnly r v).dataInv (s.writeReg_mem r v) (s.writeReg_cfg r v) hdata, ?_, ?_⟩
    · rw [hengine, hidle]
      exact nofun
    · rw [hengine, hwait]
      exact hcontrol.2

/-- A reset that cuts a command short keeps memory canonical and inside its bounds (R341). -/
theorem State.abandon_mem {s : State} (hwf : s.mem.wf = true) (hin : s.mem.within s.cfg.memSize = true) :
    s.abandon.mem.wf = true ∧ s.abandon.mem.within s.cfg.memSize = true := by
  unfold State.abandon
  split
  · split
    · rw [State.forgetWindow_mem]
      refine ⟨Memory.wf_writeBytes _ _ hwf, Memory.within_writeBytes _ ?_ hin⟩
      rw [← List.length_eq_zero_iff]
      simp only [freeBytes, List.length_map, List.length_range]
      omega
    · exact ⟨hwf, hin⟩
  · exact ⟨hwf, hin⟩

theorem State.pulseReset_inv {s : State} (h : s.DataInv) : s.pulseReset.Inv := by
  obtain ⟨hwf, hin, _⟩ := h
  obtain ⟨hwf', hin'⟩ := State.abandon_mem hwf hin
  refine State.inv_iff.mpr ⟨⟨hwf', ?_, fun _ => rfl, fun _ => rfl, .inl rfl, Nat.zero_le _⟩, nofun, fun _ => rfl⟩
  rw [State.pulseReset_cfg]
  exact hin'

theorem State.hostTurn_inv {s : State} (h : s.Inv) (rest : List HostOp) : (s.hostTurn rest).Inv := by
  obtain ⟨hdata, hbusy, hidle⟩ := State.inv_iff.mp h
  exact State.inv_iff.mpr ⟨hdata, hbusy, fun hi => by simp [State.hostTurn, hidle hi]⟩

theorem hostPerform_inv {s t : State} {op : HostOp} (h : s.Inv) (hp : hostPerform s op = .next t) : t.Inv := by
  have ⟨hdata, hcontrol⟩ := State.inv_iff.mp h
  rcases hostPerform_cases hp with ⟨_, off, v, _, hacc, rfl⟩ | ⟨_, _, _, _, rfl⟩ | ⟨a, bs, _, hbs, rfl⟩ | ⟨_, _, _, rfl⟩ |
    ⟨_, rfl⟩ | ⟨_, rfl⟩
  · exact State.writeOffset_inv h (accessWellFormed_iff.mp hacc).2 v
  · exact h
  · obtain ⟨hwf, hin, hrest⟩ := hdata
    exact State.inv_iff.mpr
      ⟨⟨Memory.wf_writeBytes _ _ hwf, Memory.within_writeBytes _ hbs.symm hin, hrest⟩, hcontrol⟩
  · exact h
  · unfold hostWait
    split <;> exact h
  · exact State.pulseReset_inv hdata

/-! ### The invariant under a step -/

theorem step_inv {s t : State} (h : s.Inv) (hstep : step s = .next t) : t.Inv := by
  have ⟨hdata, _⟩ := State.inv_iff.mp h
  rcases step_cases hstep with ⟨_, _, _, hexec⟩ | ⟨_, _, _, rfl⟩ | ⟨_, _, rfl⟩ | ⟨_, _, rest, _, hhost⟩
  · exact exec_inv hdata hexec
  · exact State.inv_iff.mpr ⟨hdata, s.finish_controlInv .illegalCmd⟩
  · exact h
  · exact hostPerform_inv (State.hostTurn_inv h rest) hhost

theorem State.reset_inv : State.reset.Inv :=
  State.inv_iff.mpr ⟨⟨rfl, rfl, fun _ => rfl, fun _ => rfl, .inl rfl, Nat.zero_le _⟩, nofun, fun _ => rfl⟩

end Sys2Proof.Machine

section
open Sys2Proof.Machine

/-- Settles O54: the data half of the invariant follows from the checks a command has passed, the control half from the
completion; a host statement writes none of the read-only data. -/
theorem everyStepKeepsTheInvariant : Obligations.EveryStepKeepsTheInvariant := by
  unfold Obligations.EveryStepKeepsTheInvariant
  intro _ _ h hstep
  exact step_inv h hstep

/-- Settles O53: both halves of the invariant hold of the reset values. -/
theorem resetMeetsTheInvariant : Obligations.ResetMeetsTheInvariant :=
  State.reset_inv

end

/-! SUPPORT. What a step does to the engine's state, to DST_OCC and to the palette store (10_state.md R31, R36, R49). -/

namespace Sys2Proof.Machine

/-! ### Who moves the engine (R31) -/

/-- A completed command is DONE. -/
theorem exec_done {i : Instr} {s t : State} (h : exec i s = .next t) : t.engine = .idle ∧ t.done = true := by
  rcases exec_cases i s with ⟨e, _, h'⟩ | ⟨_, h'⟩ <;> rw [h] at h' <;> cases h' <;> exact ⟨rfl, rfl⟩

theorem State.issue_engine (s : State) (v : Word) : (s.issue v).engine = .busy ∧ (s.issue v).cmd = v := by
  obtain ⟨w, l, h⟩ := s.issue_eq v
  rw [h]
  exact ⟨rfl, rfl⟩

/-- A host statement that is no reset keeps the engine where it is, or writes CMD while IDLE. -/
theorem hostPerform_engine {s t : State} {op : HostOp} (h : hostPerform s op = .next t) :
    t.engine = s.engine ∨ (s.engine = .idle ∧ ∃ v, op = .regWrite 32 0x008 v ∧ t.cmd = v) ∨ op = .rst := by
  rcases hostPerform_cases h with ⟨width, off, v, rfl, hacc, rfl⟩ | ⟨_, _, _, _, rfl⟩ | ⟨_, _, _, _, rfl⟩ | ⟨_, _, _, rfl⟩ |
    ⟨_, rfl⟩ | ⟨rfl, _⟩
  · obtain ⟨rfl, hal⟩ := accessWellFormed_iff.mp hacc
    rcases s.writeOffset_cases hal v with heq | ⟨hidle, rfl, heq⟩ | ⟨_, r, hr, _, heq⟩ <;> rw [heq]
    · exact .inl rfl
    · exact .inr (.inl ⟨hidle, v, rfl, (s.issue_engine v).2⟩)
    · exact .inl (State.writeReg_engine hr s v).1
  · exact .inl rfl
  · exact .inl rfl
  · exact .inl rfl
  · unfold hostWait
    split <;> exact .inl rfl
  · exact .inr (.inr rfl)

/-- Everything a step can do to the engine's state. -/
theorem step_engine_cases {s t : State} (h : step s = .next t) :
    (s.engineTurn = true ∧ t.engine = .idle ∧ t.done = true) ∨ t.engine = s.engine ∨
    (s.engine = .idle ∧ ∃ v rest, s.script = .regWrite 32 0x008 v :: rest ∧ t.cmd = v) ∨
    (∃ rest, s.script = .rst :: rest ∧ t.engine = .idle) := by
  rcases step_cases h with ⟨hturn, _, _, hexec⟩ | ⟨hturn, _, _, rfl⟩ | ⟨_, _, rfl⟩ | ⟨_, op, rest, hs, hhost⟩
  · exact .inl ⟨hturn, exec_done hexec⟩
  · exact .inl ⟨hturn, rfl, rfl⟩
  · exact .inr (.inl rfl)
  · rcases hostPerform_engine hhost with hsame | ⟨hidle, v, rfl, hcmd⟩ | rfl
    · exact .inr (.inl hsame)
    · exact .inr (.inr (.inl ⟨hidle, v, rest, hs, hcmd⟩))
    · cases hhost
      exact .inr (.inr (.inr ⟨rest, hs, rfl⟩))

/-! ### Who releases the destination (R36, R346) -/

/-- A release: the host's write to STATUS with bit 2 set. -/
def HostOp.releases (op : HostOp) : Prop := ∃ v : Word, v.getLsbD 2 = true ∧ op = .regWrite 32 0x004 v

/-- A host statement clears DST_OCC exactly where it is a release while IDLE, or the reset input. -/
theorem hostPerform_dstOcc {s t : State} {op : HostOp} (ho : s.dstOcc = true) (h : hostPerform s op = .next t) :
    t.dstOcc = false ↔ (s.engine = .idle ∧ op.releases) ∨ op = .rst := by
  unfold HostOp.releases
  rcases hostPerform_cases h with ⟨width, off, v, rfl, hacc, rfl⟩ | ⟨_, _, rfl, _, rfl⟩ | ⟨_, _, rfl, _, rfl⟩ |
    ⟨_, _, rfl, rfl⟩ | ⟨rfl, rfl⟩ | ⟨rfl, rfl⟩
  · obtain ⟨rfl, _⟩ := accessWellFormed_iff.mp hacc
    rw [State.writeOffset_dstOcc, ho, ← State.isBusy_eq_false]
    cases s.isBusy <;> simp
    tauto
  · simp [ho]
  · simp [ho]
  · simp [ho]
  · unfold hostWait
    split <;> simp [ho]
  · simp [State.pulseReset, State.reset]

/-- A step clears DST_OCC exactly where the host's statement does. -/
theorem step_dstOcc {s t : State} (ho : s.dstOcc = true) (h : step s = .next t) :
    t.dstOcc = false ↔
      (s.engine = .idle ∧ ∃ op rest, s.script = op :: rest ∧ op.releases) ∨
      (s.engineTurn = false ∧ ∃ rest, s.script = .rst :: rest) := by
  rcases step_cases h with ⟨hturn, _, _, hexec⟩ | ⟨hturn, _, _, rfl⟩ | ⟨_, hs, rfl⟩ | ⟨hturn, op, rest, hs, hhost⟩
  · simp [exec_dstOcc hexec ho, hturn, (State.engineTurn_iff.mp hturn).1]
  · simp [ho, hturn, (State.engineTurn_iff.mp hturn).1]
  · simp [ho, hs]
  · rw [hostPerform_dstOcc (s := s.hostTurn rest) ho hhost]
    simp [hs, hturn, State.hostTurn]

/-- A successful destination writer occupies its destination (R303, R305). -/
theorem exec_occupies {i : Instr} {s t : State} (hu : usesDst i = true) (h : exec i s = .next t) (he : t.err = .none) :
    t.dstOcc = true := by
  rcases exec_cases i s with ⟨e, hc, h'⟩ | ⟨hc, h'⟩ <;> rw [h] at h' <;> cases h'
  · exact absurd he (firstError_ne_none hc)
  · cases i with
    | cv2Dec =>
      obtain ⟨d, hready⟩ := decodeReady_of_checks hc
      obtain ⟨_, _, _, _, _, hbyte, _⟩ := hready
      simp [effectOf, decodeEffect, headerDepth_eq_some.mpr hbyte]
    | palSave | cv2Enc8 | cv2Enc16 | cv2Enc24 | cv2Enc32 => rfl
    | palLoad | palSet | palSwatch | palInval | lookup => cases hu

/-- An occupied destination and a host script with neither a release nor a reset. -/
def StaysOccupied (s : State) : Prop := s.dstOcc = true ∧ ∀ op ∈ s.script, op ≠ .rst ∧ ¬ op.releases

theorem step_staysOccupied {s t : State} (h : StaysOccupied s) (hstep : step s = .next t) : StaysOccupied t := by
  obtain ⟨ho, hscript⟩ := h
  refine ⟨?_, fun op hop => hscript op (step_script_mem hstep hop)⟩
  rw [← Bool.not_eq_false, step_dstOcc ho hstep]
  rintro (⟨_, op, rest, hs, hrel⟩ | ⟨_, rest, hs⟩)
  · exact (hscript op (by simp [hs])).2 hrel
  · exact (hscript .rst (by simp [hs])).1 rfl

theorem failsWith_alreadyExists {i : Instr} {s : State} (hu : usesDst i = true) (ho : s.dstOcc = true) :
    FailsWith i s .alreadyExists :=
  failsWith_of_common (commonChecks_alreadyExists hu ho)

/-! ### Who writes the palette store (R49) -/

/-- A command that changes the store is a palette command and has succeeded. -/
theorem exec_pal {i : Instr} {s t : State} (h : exec i s = .next t) (hp : t.pal ≠ s.pal) :
    t.err = .none ∧ (i = .palLoad ∨ (∃ imm, i = .palSet imm) ∨ i = .palSwatch ∨ i = .palInval) := by
  rcases exec_cases i s with ⟨e, _, h'⟩ | ⟨_, h'⟩ <;> rw [h] at h' <;> cases h'
  · exact absurd rfl hp
  · refine ⟨rfl, ?_⟩
    cases i with
    | palLoad => exact .inl rfl
    | palSet imm => exact .inr (.inl ⟨imm, rfl⟩)
    | palSwatch => exact .inr (.inr (.inl rfl))
    | palInval => exact .inr (.inr (.inr rfl))
    | cv2Dec =>
      refine absurd ?_ hp
      simp only [State.finish_pal, effectOf, decodeEffect]
      split <;> rfl
    | palSave | lookup | cv2Enc8 | cv2Enc16 | cv2Enc24 | cv2Enc32 => exact absurd rfl hp

/-- No host statement but a reset changes a read-only register, a palette flag or the store (R32). -/
theorem hostPerform_sameReadOnly {s t : State} {op : HostOp} (hop : op ≠ .rst) (h : hostPerform s op = .next t) :
    SameReadOnly s t := by
  rcases hostPerform_cases h with ⟨_, off, v, _, _, rfl⟩ | ⟨_, _, _, _, rfl⟩ | ⟨_, _, _, _, rfl⟩ | ⟨_, _, _, rfl⟩ |
    ⟨_, rfl⟩ | ⟨hrst, _⟩
  · exact s.writeOffset_sameReadOnly off v
  · constructor <;> rfl
  · constructor <;> rfl
  · constructor <;> rfl
  · unfold hostWait
    split <;> constructor <;> rfl
  · exact absurd hrst hop

/-- Taking a statement from the script touches no register. -/
theorem SameReadOnly.of_hostTurn {s t : State} {rest : List HostOp} (h : SameReadOnly (s.hostTurn rest) t) :
    SameReadOnly s t := by
  cases h
  constructor <;> assumption

/-- No host statement but a reset changes ERR, other than by issuing a command (R45, R121). -/
theorem hostPerform_err {s t : State} {op : HostOp} (hop : op ≠ .rst) (h : hostPerform s op = .next t) :
    t.err = s.err ∨ (t.err = .none ∧ t.engine = .busy) := by
  rcases hostPerform_cases h with ⟨_, off, v, _, hacc, rfl⟩ | ⟨_, _, _, _, rfl⟩ | ⟨_, _, _, _, rfl⟩ | ⟨_, _, _, rfl⟩ |
    ⟨_, rfl⟩ | ⟨hrst, _⟩
  · rcases s.writeOffset_cases (accessWellFormed_iff.mp hacc).2 v with heq | ⟨_, _, heq⟩ | ⟨_, r, hr, _, heq⟩ <;> rw [heq]
    · exact .inl rfl
    · obtain ⟨w, l, hissue⟩ := s.issue_eq v
      rw [hissue]
      exact .inr ⟨rfl, rfl⟩
    · exact .inl (State.writeReg_engine hr s v).2.2
  · exact .inl rfl
  · exact .inl rfl
  · exact .inl rfl
  · unfold hostWait
    split <;> exact .inl rfl
  · exact absurd hrst hop

end Sys2Proof.Machine

section
open Sys2Proof Sys2Proof.Machine

/-- Settles O9, by what a step can do to the engine's state. -/
theorem engineMovesOnlyByCmdWriteCompletionOrReset : Obligations.EngineMovesOnlyByCmdWriteCompletionOrReset := by
  unfold Obligations.EngineMovesOnlyByCmdWriteCompletionOrReset
  intro s t h
  rcases step_engine_cases h with ⟨hturn, hidle, hdone⟩ | hsame | ⟨hidle, v, rest, hs, hcmd⟩ | ⟨rest, hs, hidle⟩
  · exact ⟨fun _ hb => (by simp [hidle] at hb), fun _ _ => .inl ⟨hturn, hdone⟩⟩
  · rw [hsame]
    exact ⟨fun hi hb => (by simp [hi] at hb), fun hb hi => (by simp [hb] at hi)⟩
  · exact ⟨fun _ _ => ⟨v, rest, hs, hcmd⟩, fun hb => (by simp [hidle] at hb)⟩
  · exact ⟨fun _ hb => (by simp [hidle] at hb), fun _ _ => .inr ⟨rest, hs⟩⟩

/-- Settles O37: a step clears DST_OCC exactly at a release or a reset, so a run without either keeps it, and while it is 1
the first common check fails every destination writer. -/
theorem destinationStaysOccupiedUntilReleased : Obligations.DestinationStaysOccupiedUntilReleased := by
  unfold Obligations.DestinationStaysOccupiedUntilReleased
  refine ⟨fun s t ho h => ?_, fun s v rest hidle hv hs => ?_, fun j u => failsWith_alreadyExists,
    fun i s t hu hexec he => ?_⟩
  · rw [step_dstOcc ho h]
    refine or_congr_left (and_congr_right fun _ => ?_)
    exact ⟨fun ⟨_, rest, hs, v, hv, hop⟩ => ⟨v, rest, hv, hop ▸ hs⟩, fun ⟨v, rest, hv, hs⟩ => ⟨_, rest, hs, v, hv, rfl⟩⟩
  · refine ⟨_, step_host_cons (State.engineTurn_of_idle hidle) hs, ?_⟩
    rw [State.writeOffset_dstOcc]
    simp [State.isBusy_eq_false.mpr (show (s.hostTurn rest).engine = .idle from hidle), hv]
  · have ho := exec_occupies hu hexec he
    refine ⟨ho, fun n u j hrun hscript hj => ?_⟩
    have hstart : StaysOccupied t :=
      ⟨ho, fun op hop => ⟨(hscript op hop).1, fun ⟨v, hv, heq⟩ => (hscript op hop).2 v hv heq⟩⟩
    have ho' : u.dstOcc = true := (run_keeps (fun _ _ => step_staysOccupied) hstart hrun).1
    exact ⟨ho', failsWith_alreadyExists hj ho'⟩

/-- Settles O38, by the cases of a step: of the commands only the palette commands write the store, and of the host's
statements only the reset. -/
theorem paletteStoreChangesOnlyByPaletteCommands : Obligations.PaletteStoreChangesOnlyByPaletteCommands := by
  unfold Obligations.PaletteStoreChangesOnlyByPaletteCommands
  intro s t h hp
  rcases step_cases h with ⟨hturn, i, hd, hexec⟩ | ⟨_, _, _, rfl⟩ | ⟨_, _, rfl⟩ | ⟨_, op, rest, hs, hhost⟩
  · obtain ⟨he, hi⟩ := exec_pal hexec hp
    refine .inl ⟨hturn, he, ?_⟩
    rw [hd]
    simpa using hi
  · exact absurd rfl hp
  · exact absurd rfl hp
  · by_cases hop : op = .rst
    · exact .inr ⟨rest, hop ▸ hs⟩
    · exact absurd (hostPerform_sameReadOnly hop hhost).of_hostTurn.pal hp

/-- Settles O45: at the host's turn the step is the end of the run or one statement, and none but a reset writes them. -/
theorem hostCannotWriteReadOnlyRegisters : Obligations.HostCannotWriteReadOnlyRegisters := by
  unfold Obligations.HostCannotWriteReadOnlyRegisters
  intro s t hturn hrst h
  have hframe : SameReadOnly s t ∧ (t.err = s.err ∨ (t.err = .none ∧ t.engine = .busy)) := by
    cases hs : s.script with
    | nil =>
      rw [step_of_script_nil hturn hs] at h
      cases h
      exact ⟨SameReadOnly.refl s, .inl rfl⟩
    | cons op rest =>
      rw [step_host_cons hturn hs] at h
      have hop : op ≠ .rst := fun hop => hrst rest (hop ▸ hs)
      exact ⟨(hostPerform_sameReadOnly hop h).of_hostTurn, hostPerform_err (s := s.hostTurn rest) hop h⟩
  obtain ⟨hro, herr⟩ := hframe
  exact ⟨hro.stride, hro.depth, hro.resultIndex, hro.resultHit, hro.tidx, hro.outLen, hro.palValid, hro.tvalid, hro.pal,
    herr⟩

end

/-! SUPPORT. What the register window reads and ignores: the values in their bit places, the PAL window, unmapped offsets and
reserved bits (10_state.md R33-R50). -/

namespace Sys2Proof.Machine

/-! ### Reading -/

/-- A read at a register's offset gives that register's value (R46). -/
theorem State.readOffset_regOffset (s : State) (r : Reg) : s.readOffset (regOffset r) = s.readReg r := by
  rw [State.readOffset, regAt_regOffset]

theorem toNat_append_eq {m n : Nat} (x : BitVec m) (y : BitVec n) : (x ++ y).toNat = x.toNat * 2 ^ n + y.toNat := by
  rw [BitVec.toNat_append, ← Nat.shiftLeft_add_eq_or_of_lt y.isLt, Nat.shiftLeft_eq]

/-- CTRL in its bit place (R33). -/
theorem State.ctrlWord_toNat (s : State) : s.ctrlWord.toNat = s.ie.toNat := by
  unfold State.ctrlWord
  simp only [toNat_append_eq, BitVec.toNat_ofBool, BitVec.toNat_ofNat]
  omega

/-- STATUS in its bit places (R34). -/
theorem State.statusWord_toNat (s : State) :
    s.statusWord.toNat = s.tvalid.toNat * 512 + s.palValid.toNat * 256 + s.err.code.toNat * 16 + s.dstOcc.toNat * 4 +
      s.done.toNat * 2 + (if s.engine = .busy then 1 else 0) := by
  have hbusy : s.isBusy.toNat = if s.engine = .busy then 1 else 0 := by
    unfold State.isBusy
    cases s.engine <;> rfl
  unfold State.statusWord
  simp only [toNat_append_eq, BitVec.toNat_ofBool, BitVec.toNat_ofNat, hbusy]
  omega

/-- RESULT in its bit places (R43). -/
theorem State.resultWord_toNat (s : State) : s.resultWord.toNat = s.resultHit.toNat * 256 + s.resultIndex.toNat := by
  unfold State.resultWord
  simp only [toNat_append_eq, BitVec.toNat_ofBool, BitVec.toNat_ofNat]
  omega

theorem zeroExtend_byte_toNat (b : Byte) : (b.zeroExtend 32).toNat = b.toNat :=
  BitVec.toNat_setWidth_of_le (by decide)

/-- With every register and flag 0 and no palette, every offset reads 0. -/
theorem State.reset_readOffset (off : BitVec 11) : State.reset.readOffset off = 0 := by
  unfold State.readOffset
  cases regAt off with
  | none => rfl
  | some r => cases r <;> rfl

/-! ### Reserved bits (R48) -/

/-- The bits at and above `k` of a value below `2 ^ k` read 0. -/
theorem and_high_eq_zero {v : Word} {k : Nat} (h : v.toNat < 2 ^ k) : v &&& (BitVec.allOnes 32 <<< k) = 0 := by
  apply BitVec.eq_of_getLsbD_eq
  intro i hi
  simp only [BitVec.getLsbD_and, BitVec.getLsbD_shiftLeft]
  by_cases hk : i < k
  · simp [hk]
  · have hv : v.toNat.testBit i = false :=
      Nat.testBit_eq_false_of_lt (h.trans_le (Nat.pow_le_pow_right (by decide) (by omega)))
    rw [← BitVec.testBit_toNat, hv]
    simp

/-- Bits 31:10 and 3 of STATUS, whatever its fields hold. -/
theorem statusFields_reserved : ∀ (tvalid palValid dstOcc done busy : Bool) (err : BitVec 4),
    (0#22 ++ BitVec.ofBool tvalid ++ BitVec.ofBool palValid ++ err ++ 0#1 ++ BitVec.ofBool dstOcc ++
      BitVec.ofBool done ++ BitVec.ofBool busy) &&& 0xFFFFFC08#32 = 0 := by
  decide +kernel

theorem State.readReg_reserved (s : State) :
    s.readReg .ctrl &&& 0xFFFFFFFE = 0 ∧ s.readReg .status &&& 0xFFFFFC08 = 0 ∧ s.readReg .depth &&& 0xFFFFFF00 = 0 ∧
    s.readReg .result &&& 0xFFFFFE00 = 0 ∧ s.readReg .tidx &&& 0xFFFFFF00 = 0 := by
  refine ⟨and_high_eq_zero (k := 1) ?_, statusFields_reserved .., and_high_eq_zero (k := 8) ?_,
    and_high_eq_zero (k := 9) ?_, and_high_eq_zero (k := 8) ?_⟩
  · exact s.ctrlWord_toNat ▸ Bool.toNat_lt s.ie
  · exact zeroExtend_byte_toNat s.depth ▸ s.depth.isLt
  · have hhit := Bool.toNat_lt s.resultHit
    have hindex := s.resultIndex.isLt
    show s.resultWord.toNat < _
    rw [State.resultWord_toNat]
    omega
  · exact zeroExtend_byte_toNat s.tidx ▸ s.tidx.isLt

/-! ### Writing -/

/-- A write at a register's offset is that register's write, or nothing while BUSY (R45). -/
theorem State.writeOffset_regOffset (s : State) (r : Reg) (v : Word) :
    s.writeOffset (regOffset r) v = if s.engine = .busy then s else s.writeReg r v := by
  simp only [State.writeOffset, regAt_regOffset, State.isBusy_iff]

/-- A write of a register that ignores it changes nothing, BUSY or not. -/
theorem State.writeOffset_ignored {s : State} {off : BitVec 11} {v : Word}
    (h : ∀ r, regAt off = some r → s.writeReg r v = s) : s.writeOffset off v = s := by
  unfold State.writeOffset
  split
  · rfl
  · split
    · rename_i r hr
      exact h r hr
    · rfl

/-- An offset at which no register stands, or one of the PAL window, is none of those R45 lists. -/
theorem offset_not_listed {off : BitVec 11} (h : ∀ r, regAt off = some r → ∃ i, r = .pal i) :
    off ≠ 0x000 ∧ off ≠ 0x004 ∧ off ≠ 0x008 ∧ off ≠ 0x00C ∧ off ≠ 0x010 ∧ off ≠ 0x014 ∧ off ≠ 0x018 ∧ off ≠ 0x01C ∧
    off ≠ 0x020 ∧ off ≠ 0x02C := by
  have hne : ∀ r, (∀ i, r ≠ .pal i) → off ≠ regOffset r := fun r hr hoff =>
    (h r (hoff ▸ regAt_regOffset r)).elim hr
  exact ⟨hne .ctrl nofun, hne .status nofun, hne .cmd nofun, hne .srcAddr nofun, hne .srcLen nofun, hne .dstAddr nofun,
    hne .dstCap nofun, hne .width nofun, hne .height nofun, hne .color nofun⟩

theorem State.readReg_hostTurn (s : State) (rest : List HostOp) (r : Reg) : (s.hostTurn rest).readReg r = s.readReg r := by
  cases r <;> rfl

theorem State.readOffset_hostTurn (s : State) (rest : List HostOp) (off : BitVec 11) :
    (s.hostTurn rest).readOffset off = s.readOffset off := by
  simp only [State.readOffset, State.readReg_hostTurn]

theorem bool_and_not_eq_ite (a b : Bool) : (a && !b) = if b then false else a := by
  cases b <;> simp

end Sys2Proof.Machine

section
open Sys2Proof Sys2Proof.Machine

/-- Settles O40: at a multiple of 4 stands one register, whose write is a branch of R45, or none. -/
theorem registerWriteRules : Obligations.RegisterWriteRules := by
  unfold Obligations.RegisterWriteRules
  intro s off v hal
  by_cases hpal : ∀ r, regAt off = some r → ∃ i, r = .pal i
  · have hignored : s.writeOffset off v = s := State.writeOffset_ignored fun r hr => by
      obtain ⟨i, rfl⟩ := hpal r hr
      rfl
    obtain ⟨h0, h1, h2, h3, h4, h5, h6, h7, h8, h9⟩ := offset_not_listed hpal
    simp only [hignored, h0, h1, h2, h3, h4, h5, h6, h7, h8, h9, if_false, ite_self]
  · push Not at hpal
    obtain ⟨r, hr, hr'⟩ := hpal
    obtain rfl := (regAt_eq_some_iff hal).mp hr
    rw [State.writeOffset_regOffset]
    refine ite_congr rfl (fun _ => rfl) fun _ => ?_
    cases r
    case status =>
      simp only [State.writeReg, bool_and_not_eq_ite]
      rfl
    case pal i => exact absurd rfl (hr' i)
    all_goals rfl

/-- Settles O41: each named offset is a register's own, whose word is read in its bit places. -/
theorem registerReadRules : Obligations.RegisterReadRules := by
  unfold Obligations.RegisterReadRules
  intro s
  have hread := s.readOffset_regOffset
  refine ⟨?_, ?_, hread .cmd, hread .srcAddr, hread .srcLen, hread .dstAddr, hread .dstCap, hread .width, hread .height,
    hread .stride, ?_, hread .color, ?_, ?_, hread .outLen⟩
  · exact (congrArg BitVec.toNat (hread .ctrl)).trans s.ctrlWord_toNat
  · exact (congrArg BitVec.toNat (hread .status)).trans s.statusWord_toNat
  · exact (congrArg BitVec.toNat (hread .depth)).trans (zeroExtend_byte_toNat s.depth)
  · exact (congrArg BitVec.toNat (hread .result)).trans s.resultWord_toNat
  · exact (congrArg BitVec.toNat (hread .tidx)).trans (zeroExtend_byte_toNat s.tidx)

/-- Settles O42: an offset of the window is an entry's own; the entry is read where there is a palette, and its write is
ignored. -/
theorem paletteWindowReadsTheStoreOrZero : Obligations.PaletteWindowReadsTheStoreOrZero := by
  unfold Obligations.PaletteWindowReadsTheStoreOrZero
  intro s i off hoff
  obtain ⟨j, hj, rfl⟩ := regAt_pal i off hoff
  refine ⟨fun hv => ?_, fun hv => ?_, fun v => State.writeOffset_ignored fun r hr => ?_⟩
  · simp [State.readOffset, hj, State.readReg, hv, Color.word]
  · simp [State.readOffset, hj, State.readReg, hv]
  · rw [hj] at hr
    cases hr
    rfl

/-- Settles O43: no register stands at an unmapped offset; the reserved bits are not stored, and a write takes the others
only. -/
theorem unmappedOffsetsAndReservedBits : Obligations.UnmappedOffsetsAndReservedBits := by
  unfold Obligations.UnmappedOffsetsAndReservedBits
  refine ⟨fun s off v hlo hhi => ?_, fun s => ?_, fun s v => ⟨?_, ?_, ?_, ?_, ?_⟩⟩
  · have hnone := regAt_unmapped hlo hhi
    exact ⟨by rw [State.readOffset, hnone], State.writeOffset_ignored (by simp [hnone])⟩
  · have hread := s.readOffset_regOffset
    have hreserved := s.readReg_reserved
    simp only [← hread] at hreserved
    exact hreserved
  · have hw := fun v => s.writeOffset_regOffset .ctrl v
    refine (hw v).trans (Eq.trans ?_ (hw (v &&& 1)).symm)
    simp [State.writeReg]
  · have hw := fun v => s.writeOffset_regOffset .status v
    refine (hw v).trans (Eq.trans ?_ (hw (v &&& 6)).symm)
    simp [State.writeReg]
  · exact (s.writeOffset_regOffset .depth v).trans (ite_self s)
  · exact (s.writeOffset_regOffset .result v).trans (ite_self s)
  · exact (s.writeOffset_regOffset .tidx v).trans (ite_self s)

/-- Settles O44: at the host's turn the step is the statement itself, which is refused exactly where it is misformed. -/
theorem onlyAlignedWordAccessesAreAccepted : Obligations.OnlyAlignedWordAccessesAreAccepted := by
  unfold Obligations.OnlyAlignedWordAccessesAreAccepted
  rintro s _ width off v rest hturn rfl
  refine ⟨fun hbad => ?_, fun hwidth hal => ?_⟩
  · have hacc : accessWellFormed width off = false := by
      rw [← Bool.not_eq_true, accessWellFormed_iff]
      omega
    refine ⟨fun hs => ?_, fun hs => ?_⟩
    · rw [step_host_cons hturn hs, hostPerform, hostRegWrite, hacc]
      rfl
    · rw [step_host_cons hturn hs, hostPerform, hostRegRead, hacc]
      rfl
  · have hacc : accessWellFormed width off = true := accessWellFormed_iff.mpr ⟨hwidth, hal⟩
    refine ⟨fun hs => ?_, fun hs => ?_⟩
    · rw [step_host_cons hturn hs, hostPerform, hostRegWrite, hacc]
      rfl
    · rw [step_host_cons hturn hs, hostPerform, hostRegRead, hacc, State.readOffset_hostTurn]
      rfl

/-- Settles O49: every register of the reset state reads 0. -/
theorem resetStateIsThatOfTheTable : Obligations.ResetStateIsThatOfTheTable :=
  ⟨rfl, rfl, State.reset_readOffset⟩

end

/-! SUPPORT. What a command writes to buffer memory and what it reads of it (20_memory.md R98): each effect is one write of an
image at the destination window, and neither the image nor anything else depends on memory outside the source window. -/

namespace Sys2Proof.Machine

/-! ### What a command writes -/

/-- The bytes a command writes at the start of its destination window; none for a command that uses no such window (R98). -/
def outputOf : Instr → State → List Byte
  | .palSave, s => palImage s.pal
  | .cv2Enc8, s => encodeImage .d8 s
  | .cv2Enc16, s => encodeImage .d16 s
  | .cv2Enc24, s => encodeImage .d24 s
  | .cv2Enc32, s => encodeImage .d32 s
  | .cv2Dec, s =>
    match headerDepth s with
    | some d => decodeImage d s
    | none => []
  | .palLoad, _ | .palSet _, _ | .palSwatch, _ | .palInval, _ | .lookup, _ => []

theorem outputOf_of_encodeDepth {i : Instr} {d : Depth} (h : encodeDepth i = some d) (s : State) :
    outputOf i s = encodeImage d s := by
  cases i <;> cases h <;> rfl

theorem outputOf_of_not_usesDst {i : Instr} (h : usesDst i = false) (s : State) : outputOf i s = [] := by
  cases i <;> first | rfl | cases h

/-- Every command's effect on memory is one write at the destination window. -/
theorem effectOf_mem (i : Instr) (s : State) :
    (effectOf i s).mem = s.mem.writeBytes s.latch.dstAddr.toNat (outputOf i s) := by
  cases i
  case cv2Dec =>
    cases hd : headerDepth s <;> simp only [effectOf, decodeEffect, outputOf, hd] <;> rfl
  all_goals rfl

/-- A size that fits a register is not cut when it is put there. -/
theorem toNat_ofNat_of_le_word {n : Nat} {v : Word} (h : n ≤ v.toNat) : (BitVec.ofNat 32 n).toNat = n := by
  have := v.isLt
  rw [BitVec.toNat_ofNat, Nat.mod_eq_of_lt (by omega)]

/-- A destination writer that no check stops writes OUT_LEN bytes, which fit DST_CAP (R44, R98). -/
theorem outputOf_fits {i : Instr} {s : State} (hu : usesDst i = true)
    (hc : firstError (commonChecks i s ++ ownChecks i s) = none) :
    (outputOf i s).length ≤ s.latch.dstCap.toNat ∧ (effectOf i s).outLen.toNat = (outputOf i s).length := by
  have hencode : ∀ d, encodeDepth i = some d → (outputOf i s).length ≤ s.latch.dstCap.toNat ∧
      (effectOf i s).outLen.toNat = (outputOf i s).length := by
    intro d hd
    obtain ⟨_, _, _, _, _, _, _, _, hcap⟩ := encodeReady_of_checks hd hc
    rw [outputOf_of_encodeDepth hd, (own_of_encodeDepth hd).2, encodeImage_length]
    exact ⟨hcap, toNat_ofNat_of_le_word hcap⟩
  cases i with
  | palSave =>
    have hown := firstError_eq_none.mp (checks_pass hc).2
    simp only [ownChecks, palSaveChecks, List.mem_cons, List.not_mem_nil, or_false, forall_eq_or_imp, forall_eq,
      decide_eq_false_iff_not, Nat.not_lt] at hown
    rw [outputOf, palImage_length]
    exact ⟨hown.2, rfl⟩
  | cv2Enc8 => exact hencode .d8 rfl
  | cv2Enc16 => exact hencode .d16 rfl
  | cv2Enc24 => exact hencode .d24 rfl
  | cv2Enc32 => exact hencode .d32 rfl
  | cv2Dec =>
    obtain ⟨d, hready⟩ := decodeReady_of_checks hc
    have hst := headerWidth_le_headerStride hready
    obtain ⟨_, _, _, _, _, hbyte, _, _, _, _, _, hcap⟩ := hready
    simp only [outputOf, effectOf, decodeEffect, headerDepth_eq_some.mpr hbyte, decodeWrites_outLen]
    rw [decodeImage, decodeBody_length _ _ _ _ _ _ hst]
    exact ⟨hcap, toNat_ofNat_of_le_word hcap⟩
  | palLoad | palSet | palSwatch | palInval | lookup => cases hu

/-! ### What a command reads -/

/-- The state with another buffer memory. -/
def State.withMem (s : State) (m : Memory) : State := { s with mem := m }

/-- The memory `m` agrees with the state's own on the source window. -/
def AgreesOnSrc (s : State) (m : Memory) : Prop :=
  ∀ a, s.latch.srcAddr.toNat ≤ a → a < s.latch.srcAddr.toNat + s.latch.srcLen.toNat → m.read a = s.mem.read a

theorem AgreesOnSrc.read_add {s : State} {m : Memory} (h : AgreesOnSrc s m) {k : Nat} (hk : k < s.latch.srcLen.toNat) :
    m.read (s.latch.srcAddr.toNat + k) = s.mem.read (s.latch.srcAddr.toNat + k) :=
  h _ (by omega) (by omega)

theorem AgreesOnSrc.color_add {s : State} {m : Memory} (h : AgreesOnSrc s m) {k : Nat}
    (hk : k + 4 ≤ s.latch.srcLen.toNat) :
    m.color (s.latch.srcAddr.toNat + k) = s.mem.color (s.latch.srcAddr.toNat + k) :=
  Memory.color_congr fun _ _ => h _ (by omega) (by omega)

theorem AgreesOnSrc.palWord {s : State} {m : Memory} (h : AgreesOnSrc s m) (h513 : 513 ≤ s.latch.srcLen.toNat) {i : Nat}
    (hi : i < 256) : m.palWord s.latch.srcAddr.toNat i = s.mem.palWord s.latch.srcAddr.toNat i :=
  Memory.half_congr fun _ _ => h _ (by omega) (by omega)

theorem AgreesOnSrc.word_add {s : State} {m : Memory} (h : AgreesOnSrc s m) {k : Nat}
    (hk : k + 4 ≤ s.latch.srcLen.toNat) :
    m.word (s.latch.srcAddr.toNat + k) = s.mem.word (s.latch.srcAddr.toNat + k) :=
  Memory.word_congr fun _ _ => h _ (by omega) (by omega)

/-- The header fields lie in a source window of at least 17 bytes (R92). -/
theorem AgreesOnSrc.header {s : State} {m : Memory} (h : AgreesOnSrc s m) (h17 : 17 ≤ s.latch.srcLen.toNat) :
    headerDepth (s.withMem m) = headerDepth s ∧ headerWidth (s.withMem m) = headerWidth s ∧
      headerHeight (s.withMem m) = headerHeight s ∧ headerStride (s.withMem m) = headerStride s :=
  ⟨congrArg depthOfByte (h.read_add (k := 0) (by omega)), h.word_add (k := 1) (by omega), h.word_add (k := 5) (by omega),
    h.word_add (k := 9) (by omega)⟩

/-- The own checks of a command look at no byte outside the source window: those of CV2_DEC at the header, once the window is
long enough to hold it, and the others at no byte. -/
theorem ownChecks_withMem {i : Instr} {s : State} {m : Memory} (h : usesSrc i = true → AgreesOnSrc s m) :
    firstError (ownChecks i (s.withMem m)) = firstError (ownChecks i s) := by
  cases i
  case cv2Dec =>
    simp only [ownChecks, firstError_decodeChecks]
    by_cases h17 : s.latch.srcLen.toNat < 17
    · rw [if_pos h17, if_pos (show (s.withMem m).latch.srcLen.toNat < 17 from h17)]
    · obtain ⟨hd, hw, hh, hst⟩ := (h rfl).header (by omega)
      rw [hd, hw, hh, hst]
      rfl
  all_goals rfl

theorem checks_withMem {i : Instr} {s : State} {m : Memory} (h : usesSrc i = true → AgreesOnSrc s m) :
    firstError (commonChecks i (s.withMem m) ++ ownChecks i (s.withMem m)) =
      firstError (commonChecks i s ++ ownChecks i s) := by
  rw [firstError_append, firstError_append, ownChecks_withMem h]
  rfl

/-- The sampled pixel of a palette index ends inside a legal swatch (R170, R171). -/
theorem swatchOffset_inside {w h : Word} (hsize : swatchSizeLegal w h = true) {k : Nat} (hk : k < 256) :
    swatchOffset w.toNat k + 4 ≤ w.toNat * h.toNat * 4 := by
  have hscale : w.toNat = h.toNat ∧ w.toNat = 16 * (w.toNat / 16) ∧ 0 < w.toNat / 16 := by
    simp only [swatchSizeLegal, Bool.or_eq_true, Bool.and_eq_true, beq_iff_eq] at hsize
    rcases hsize with ⟨rfl, rfl⟩ | ⟨rfl, rfl⟩ <;> decide
  obtain ⟨hwh, hw, hpos⟩ := hscale
  have hinside : ∀ j, j < 16 → j * (w.toNat / 16) < w.toNat := fun j hj => by
    have := Nat.mul_lt_mul_of_pos_right hj hpos
    omega
  exact pixel_in_raster (hinside _ (by omega)) (hwh ▸ hinside _ (by omega)) 4

/-- The raster of a CV2_DEC that no check stops is decoded from the source window (R255, R257). -/
theorem AgreesOnSrc.decodeImage {d : Depth} {s : State} {m : Memory} (h : AgreesOnSrc s m) (hready : DecodeReady d s) :
    decodeImage d (s.withMem m) = decodeImage d s := by
  have hst := headerWidth_le_headerStride hready
  obtain ⟨_, _, _, _, h17, _, _, _, _, _, hbody, _⟩ := hready
  obtain ⟨_, _, _, _, himg⟩ := decodeImage_congr d s m (fun k _ => h.read_add (by omega)) fun x y k hx hy hk => by
    have := pixel_in_raster (lt_of_lt_of_le hx hst) hy (psize d)
    rw [Nat.mul_comm (headerStride s).toNat] at this
    exact h _ (by omega) (by omega)
  exact himg

/-- The effect of a command that no check stops looks at no byte outside the source window, and what it writes to memory is the
same (R98). -/
theorem effectOf_withMem {i : Instr} {s : State} {m : Memory} (h : usesSrc i = true → AgreesOnSrc s m)
    (hc : firstError (commonChecks i s ++ ownChecks i s) = none) :
    effectOf i (s.withMem m) =
      (effectOf i s).withMem (m.writeBytes s.latch.dstAddr.toNat (outputOf i s)) := by
  have hencode : ∀ d, encodeDepth i = some d → effectOf i (s.withMem m) =
      (effectOf i s).withMem (m.writeBytes s.latch.dstAddr.toNat (outputOf i s)) := by
    intro d hd
    obtain ⟨_, _, _, _, _, _, _, hsl, _⟩ := encodeReady_of_checks hd hc
    have himg : encodeImage d (s.withMem m) = encodeImage d s :=
      encodeImage_congr d s m hsl (h (usesSrc_of_encodeDepth hd).1)
    rw [outputOf_of_encodeDepth hd, (own_of_encodeDepth hd).2, encodeEffect, himg]
    rfl
  have hown := firstError_eq_none.mp (checks_pass hc).2
  cases i with
  | palLoad =>
    simp only [ownChecks, palLoadChecks, List.mem_singleton, forall_eq, decide_eq_false_iff_not, Nat.not_lt] at hown
    have hword : ∀ i, i < 256 → m.palWord s.latch.srcAddr.toNat i = s.mem.palWord s.latch.srcAddr.toNat i :=
      fun i hi => (h rfl).palWord hown hi
    have hwords : palWords m s.latch.srcAddr.toNat = palWords s.mem s.latch.srcAddr.toNat :=
      List.map_congr_left fun i hi => hword i (List.mem_range.mp hi)
    have hpal : (palOf fun i => fromPacked16 (m.palWord s.latch.srcAddr.toNat i)) =
        palOf fun i => fromPacked16 (s.mem.palWord s.latch.srcAddr.toNat i) :=
      palOf_congr fun i hi => congrArg fromPacked16 (hword i hi)
    simp only [effectOf, palLoadEffect, State.withMem, State.srcWindow, hwords, hpal]
    rfl
  | palSet t =>
    simp only [ownChecks, palSetChecks, List.mem_singleton, forall_eq, decide_eq_false_iff_not, Nat.not_lt] at hown
    have hpal : (palOf fun i => m.color (s.latch.srcAddr.toNat + 4 * i)) =
        palOf fun i => s.mem.color (s.latch.srcAddr.toNat + 4 * i) :=
      palOf_congr fun i hi => (h rfl).color_add (by omega)
    simp only [effectOf, palSetEffect, State.withMem, State.srcWindow, hpal]
    rfl
  | palSwatch =>
    simp only [ownChecks, palSwatchChecks, List.mem_cons, List.not_mem_nil, or_false, forall_eq_or_imp, forall_eq,
      Bool.not_eq_false', decide_eq_false_iff_not, Nat.not_lt] at hown
    obtain ⟨hsize, hlen⟩ := hown
    have hpal : (palSwatchEffect (s.withMem m)).pal = (palSwatchEffect s).pal :=
      palOf_congr fun k hk => ite_congr rfl (fun _ => rfl) fun _ =>
        (h rfl).color_add ((swatchOffset_inside hsize hk).trans hlen)
    change { palSwatchEffect (s.withMem m) with pal := (palSwatchEffect (s.withMem m)).pal } = _
    rw [hpal]
    rfl
  | palSave => rfl
  | palInval => rfl
  | lookup => rfl
  | cv2Enc8 => exact hencode .d8 rfl
  | cv2Enc16 => exact hencode .d16 rfl
  | cv2Enc24 => exact hencode .d24 rfl
  | cv2Enc32 => exact hencode .d32 rfl
  | cv2Dec =>
    obtain ⟨d, hready⟩ := decodeReady_of_checks hc
    have himg := (h rfl).decodeImage hready
    obtain ⟨_, _, _, _, h17, hbyte, _⟩ := hready
    have hdep := headerDepth_eq_some.mpr hbyte
    obtain ⟨hd, hw, hh, hst⟩ := (h rfl).header h17
    simp only [effectOf, decodeEffect, outputOf, hd, hdep]
    rw [decodeWrites, himg, hw, hh, hst]
    rfl

end Sys2Proof.Machine

/-! SUPPORT. The host's accesses to buffer memory (20_memory.md R100): the step is the access itself, which goes through, or
faults where the bytes do not exist or lie in a window of the running command. -/

namespace Sys2Proof.Machine

theorem step_memWrite {s : State} {addr : Word} {bs : List Byte} {rest : List HostOp} (ht : s.engineTurn = false)
    (hs : s.script = .memWrite addr bs :: rest) :
    step s = hostMemAccess (s.hostTurn rest) ⟨addr.toNat, bs.length⟩
      { s with script := rest, wait := s.wait - 1, mem := s.mem.writeBytes addr.toNat bs } :=
  step_host_cons ht hs

theorem step_memRead {s : State} {addr : Word} {n : Nat} {rest : List HostOp} (ht : s.engineTurn = false)
    (hs : s.script = .memRead addr n :: rest) :
    step s = hostMemAccess (s.hostTurn rest) ⟨addr.toNat, n⟩
      { s with script := rest, wait := s.wait - 1, reads := .bytes (s.mem.readBytes addr.toNat n) :: s.reads } :=
  step_host_cons ht hs

/-- An access to bytes that memory has goes through while IDLE (R100). -/
theorem hostMemAccess_of_idle {s t : State} {w : Window} (hidle : s.engine = .idle) (hin : w.base + w.len ≤ s.cfg.memSize) :
    hostMemAccess s w t = .next t :=
  hostMemAccess_of_inside hin (by rw [runningWindows_of_idle hidle]; rfl)

theorem step_memWrite_idle {s : State} {addr : Word} {bs : List Byte} {rest : List HostOp} (hidle : s.engine = .idle)
    (hs : s.script = .memWrite addr bs :: rest) (hin : addr.toNat + bs.length ≤ s.cfg.memSize) :
    step s = .next { s with script := rest, wait := s.wait - 1, mem := s.mem.writeBytes addr.toNat bs } :=
  (step_memWrite (State.engineTurn_of_idle hidle) hs).trans (hostMemAccess_of_idle hidle hin)

theorem step_memRead_idle {s : State} {addr : Word} {n : Nat} {rest : List HostOp} (hidle : s.engine = .idle)
    (hs : s.script = .memRead addr n :: rest) (hin : addr.toNat + n ≤ s.cfg.memSize) :
    step s = .next
      { s with script := rest, wait := s.wait - 1, reads := .bytes (s.mem.readBytes addr.toNat n) :: s.reads } :=
  (step_memRead (State.engineTurn_of_idle hidle) hs).trans (hostMemAccess_of_idle hidle hin)

/-- An access to bytes that memory has, some of them in a window of the running command, faults (R100, R345). -/
theorem hostMemAccess_of_hazard {s t : State} {w : Window} (hin : w.base + w.len ≤ s.cfg.memSize)
    (h : s.runningWindows.any w.overlaps = true) : hostMemAccess s w t = .fault .bufferHazard := by
  rw [hostMemAccess, if_neg (by simp; omega), if_pos h]

/-- Bytes written are what the same range reads as. -/
theorem Memory.readBytes_writeBytes_self (m : Memory) (a : Nat) (bs : List Byte) :
    (m.writeBytes a bs).readBytes a bs.length = bs := by
  have h := m.readBytes_writeBytes a bs 0 bs.length (by omega)
  rwa [Nat.add_zero, List.drop_zero, List.take_length] at h

end Sys2Proof.Machine

section
open Sys2Proof.Machine

/-- Settles O35: on success a command's effect on memory is one write at DST_ADDR, of OUT_LEN bytes where it uses a
destination window and of none where it does not; an error writes nothing. -/
theorem commandsWriteOnlyTheirDestination : Obligations.CommandsWriteOnlyTheirDestination := by
  unfold Obligations.CommandsWriteOnlyTheirDestination
  intro i s t hx
  rcases exec_cases i s with ⟨e, hc, h⟩ | ⟨hc, h⟩ <;> rw [hx] at h <;> cases h
  · exact ⟨fun _ he => absurd he (firstError_ne_none hc), fun _ _ => rfl⟩
  · refine ⟨fun hu _ => ?_, fun hu a => ?_⟩
    · obtain ⟨hcap, hlen⟩ := outputOf_fits hu hc
      refine ⟨?_, dstInside_of_commonPass hu (checks_pass hc).1, fun a ha => ?_⟩
      · rw [State.finish_outLen, hlen]
        exact hcap
      · rw [State.finish_outLen, hlen] at ha
        rw [State.finish_mem, effectOf_mem, Memory.read_writeBytes_of_outside _ _ _ _ ha]
    · have hno : usesDst i = false := hu.resolve_right (absurd rfl)
      rw [State.finish_mem, effectOf_mem, outputOf_of_not_usesDst hno]
      rfl

/-- Settles O36: in a memory that agrees on the source window the checks answer the same and the effect carries the other
memory along, with the same bytes written. -/
theorem commandsReadOnlyTheirSource : Obligations.CommandsReadOnlyTheirSource := by
  unfold Obligations.CommandsReadOnlyTheirSource
  intro i s m hagree
  change ∃ t t', _ ∧ exec i (s.withMem m) = .next t' ∧ _
  have hchecks := checks_withMem hagree
  rcases exec_cases i s with ⟨e, hc, h⟩ | ⟨hc, h⟩
  · have h' : exec i (s.withMem m) = .next ((s.withMem m).finish e) := by
      rw [exec_eq, runCommand_of_some (hchecks.trans hc)]
    exact ⟨_, _, h, h', rfl, fun _ he => absurd he (firstError_ne_none hc)⟩
  · have h' : exec i (s.withMem m) = .next ((effectOf i (s.withMem m)).finish .none) := by
      rw [exec_eq, runCommand_of_none (hchecks.trans hc)]
    rw [effectOf_withMem hagree hc] at h'
    refine ⟨_, _, h, h', rfl, fun hu _ a hlo hhi => ?_⟩
    rw [State.finish_outLen, (outputOf_fits hu hc).2] at hhi
    rw [State.finish_mem, State.finish_mem, effectOf_mem]
    exact Memory.read_writeBytes_congr le_rfl a hlo hhi

/-- Settles O46: the step is the access; the bytes exist, so it meets a window of the running command or goes through. -/
theorem hostBufferAccessFaultsOnlyInRunningWindows : Obligations.HostBufferAccessFaultsOnlyInRunningWindows := by
  unfold Obligations.HostBufferAccessFaultsOnlyInRunningWindows
  intro s t op rest addr n hturn hs hin hop
  have hstep : step s = hostMemAccess (s.hostTurn rest) ⟨addr.toNat, n⟩ t := by
    rcases hop with ⟨bs, rfl, rfl, rfl⟩ | ⟨rfl, rfl⟩
    · exact step_memWrite hturn hs
    · exact step_memRead hturn hs
  rw [hstep]
  refine ⟨fun hidle => hostMemAccess_of_idle hidle hin, fun i hbusy hdec => ?_⟩
  have hmeets := runningWindows_any_iff (s := s.hostTurn rest) hbusy hdec addr.toNat n
  refine ⟨fun hbyte => hostMemAccess_of_hazard hin ?_, fun hbytes => hostMemAccess_of_inside hin ?_⟩
  · obtain ⟨a, hlo, hhi, hwindow⟩ := hbyte
    exact hmeets.mpr ⟨a, hlo, hhi, hwindow⟩
  · rw [← Bool.not_eq_true, hmeets]
    rintro ⟨a, hlo, hhi, hwindow⟩
    obtain ⟨hsrc, hdst⟩ := hbytes a hlo hhi
    exact hwindow.elim hsrc hdst

/-- Settles O47: both accesses go through while IDLE, and the range reads as what was written there. -/
theorem hostReadsBackWhatItWrote : Obligations.HostReadsBackWhatItWrote := by
  unfold Obligations.HostReadsBackWhatItWrote
  intro s addr bs rest hidle hs hin
  refine ⟨_, _, step_memWrite_idle hidle hs hin, step_memRead_idle hidle rfl hin, ?_, rfl, fun a ha =>
    Memory.read_writeBytes_of_outside _ _ _ _ ha⟩
  simp only [Memory.readBytes_writeBytes_self]

/-- Settles O56: the engine never stops, and of the host's statements only such an access raises `bufferOutside`. -/
theorem hostBufferAccessOutsideMemoryFaults : Obligations.HostBufferAccessOutsideMemoryFaults := by
  unfold Obligations.HostBufferAccessOutsideMemoryFaults
  refine ⟨fun s => ?_, fun s addr rest hturn => ⟨fun hs => ?_, fun hs => ?_⟩⟩
  · cases hturn : s.engineTurn with
    | true =>
      obtain ⟨t, ht⟩ := engineStep_next s
      simp [step_engine hturn, ht]
    | false =>
      cases hs : s.script with
      | nil => simp [step_of_script_nil hturn hs]
      | cons op rest =>
        rw [step_host_cons hturn hs, hostPerform_bufferOutside_iff]
        simp only [State.hostTurn_cfg, true_and, List.cons.injEq]
        constructor
        · rintro ⟨addr, n, hacc⟩
          exact ⟨op, rest, addr, n, ⟨rfl, rfl⟩, hacc⟩
        · rintro ⟨_, _, addr, n, ⟨rfl, rfl⟩, hacc⟩
          exact ⟨addr, n, hacc⟩
  · rw [step_memRead hturn hs, hostMemAccess_zero]
    rfl
  · exact (step_memWrite hturn hs).trans (hostMemAccess_zero _ _ _)

end

/-! SUPPORT. Command words (30_encoding.md R120-R126): a word with the reserved bits 0 is its three fields, the decoder undoes
the encoder, and the legal words are exactly the encoded commands. -/

namespace Sys2Proof

/-! ### The word as its fields (R120) -/

@[simp] theorem opField_cmdw (op : BitVec 4) (d : BitVec 2) (t : Byte) : opField (cmdw op d t) = op :=
  (cmdw_fields op d t).1

@[simp] theorem dselField_cmdw (op : BitVec 4) (d : BitVec 2) (t : Byte) : dselField (cmdw op d t) = d := by
  obtain ⟨-, hsel, -⟩ := cmdw_fields op d t
  exact hsel

@[simp] theorem tField_cmdw (op : BitVec 4) (d : BitVec 2) (t : Byte) : tField (cmdw op d t) = t := by
  obtain ⟨-, -, -, himm, -⟩ := cmdw_fields op d t
  exact himm

@[simp] theorem reservedField_cmdw (op : BitVec 4) (d : BitVec 2) (t : Byte) : reservedField (cmdw op d t) = 0 := by
  obtain ⟨-, -, hlow, -, hhigh⟩ := cmdw_fields op d t
  exact (reservedField_eq_zero_iff _).mpr ⟨hhigh, hlow⟩

theorem eq_cmdw_of_reservedField {v : Word} (h : reservedField v = 0) :
    v = cmdw (opField v) (dselField v) (tField v) := by
  obtain ⟨hop, hsel, hlow, himm, hhigh⟩ := cmdw_fields (opField v) (dselField v) (tField v)
  obtain ⟨hhigh', hlow'⟩ := (reservedField_eq_zero_iff v).mp h
  exact word_eq_of_fields hop.symm hsel.symm (hlow'.trans hlow.symm) himm.symm (hhigh'.trans hhigh.symm)

/-- CV2_ENC's word for each depth select (R123). -/
theorem encode_encodeCommand : ∀ d : BitVec 2, encode (encodeCommand d) = cmdw 7 d 0 := by decide

/-! ### Decoding -/

theorem plainCommand_eq_ok_iff {v : Word} {i j : Instr} :
    plainCommand v j = .ok i ↔ dselField v = 0 ∧ tField v = 0 ∧ j = i := by
  unfold plainCommand
  split
  · simp_all
  · split <;> simp_all

theorem decode_eq_ok_iff_decodeOp {v : Word} {i : Instr} :
    decode v = .ok i ↔ reservedField v = 0 ∧ decodeOp v = .ok i := by
  unfold decode
  split <;> simp_all

/-- A plain command's word is the word's own fields (R122, R125). -/
theorem encode_of_plainCommand {v : Word} {i j : Instr} {op : BitVec 4} (hop : (opField v).toNat = op.toNat)
    (hj : encode j = cmdw op 0 0) (h : plainCommand v j = .ok i) :
    encode i = cmdw (opField v) (dselField v) (tField v) := by
  obtain ⟨hsel, himm, rfl⟩ := plainCommand_eq_ok_iff.mp h
  rw [BitVec.eq_of_toNat_eq hop, hsel, himm, hj]

/-- An assigned OP fixes the command up to its fields, so the command's word is those fields again (R122). -/
theorem encode_of_decodeOp {v : Word} {i : Instr} (h : decodeOp v = .ok i) :
    encode i = cmdw (opField v) (dselField v) (tField v) := by
  unfold decodeOp at h
  split at h
  case h_1 hv => exact encode_of_plainCommand (op := 1) hv rfl h
  case h_2 hv => exact encode_of_plainCommand (op := 2) hv rfl h
  case h_3 hv =>
    split at h
    · cases h
    · rename_i hsel
      cases h
      rw [BitVec.eq_of_toNat_eq (y := 3) hv, not_not.mp hsel, encode]
  case h_4 hv => exact encode_of_plainCommand (op := 4) hv rfl h
  case h_5 hv => exact encode_of_plainCommand (op := 5) hv rfl h
  case h_6 hv => exact encode_of_plainCommand (op := 6) hv rfl h
  case h_7 hv =>
    split at h
    · cases h
    · rename_i himm
      cases h
      rw [BitVec.eq_of_toNat_eq (y := 7) hv, not_not.mp himm, encode_encodeCommand]
  case h_8 hv => exact encode_of_plainCommand (op := 8) hv rfl h
  case h_9 => cases h

theorem decode_encode (i : Instr) : decode (encode i) = .ok i := by
  cases i
  case palSet t =>
    rw [encode, decode_cmdw, decodeOp, opField_cmdw, dselField_cmdw, tField_cmdw]
    rfl
  all_goals rfl

/-- Every command has exactly one word (R122). -/
theorem decode_eq_ok_iff {v : Word} {i : Instr} : decode v = .ok i ↔ encode i = v := by
  refine ⟨fun h => ?_, fun h => h ▸ decode_encode i⟩
  obtain ⟨hres, hop⟩ := decode_eq_ok_iff_decodeOp.mp h
  exact (encode_of_decodeOp hop).trans (eq_cmdw_of_reservedField hres).symm

theorem Instr.wellFormed_eq_true (i : Instr) : i.wellFormed = true := by
  cases i
  case palSet t => exact decide_eq_true (Nat.le_of_lt_succ t.isLt)
  all_goals rfl

/-! ### Legal words (R125) -/

/-- R125 with the word's fields named. -/
theorem wordLegal_iff {v : Word} : wordLegal v = true ↔
    (1#4 ≤ opField v ∧ opField v ≤ 8#4) ∧ reservedField v = 0 ∧ (opField v = 3#4 ∨ tField v = 0#8) ∧
    (opField v = 7#4 ∨ dselField v = 0#2) := by
  rw [reservedField_eq_zero_iff]
  simp [wordLegal, opAssigned, reservedClear, immediateClear, depthSelectClear, opField, tField, dselField, and_assoc]

theorem wordLegal_cmdw (op : BitVec 4) (d : BitVec 2) (t : Byte) : wordLegal (cmdw op d t) = true ↔
    (1#4 ≤ op ∧ op ≤ 8#4) ∧ (op = 3#4 ∨ t = 0#8) ∧ (op = 7#4 ∨ d = 0#2) := by
  rw [wordLegal_iff, opField_cmdw, tField_cmdw, dselField_cmdw, reservedField_cmdw]
  simp

theorem wordLegal_encode (i : Instr) : wordLegal (encode i) = true := by
  cases i <;> exact (wordLegal_cmdw _ _ _).mpr (by simp)

/-- The assigned OPs without an operand field (R122). -/
theorem plainOp_cases : ∀ op : BitVec 4, 1#4 ≤ op → op ≤ 8#4 → op ≠ 3#4 → op ≠ 7#4 →
    op = 1 ∨ op = 2 ∨ op = 4 ∨ op = 5 ∨ op = 6 ∨ op = 8 := by decide

theorem exists_encode_of_wordLegal_cmdw {op : BitVec 4} {d : BitVec 2} {t : Byte} (h : wordLegal (cmdw op d t) = true) :
    ∃ i, encode i = cmdw op d t := by
  obtain ⟨⟨hlo, hhi⟩, himm, hsel⟩ := (wordLegal_cmdw op d t).mp h
  by_cases h3 : op = 3#4
  · subst h3
    obtain rfl := hsel.resolve_left (by decide)
    exact ⟨.palSet t, rfl⟩
  obtain rfl := himm.resolve_left h3
  by_cases h7 : op = 7#4
  · subst h7
    exact ⟨encodeCommand d, encode_encodeCommand d⟩
  obtain rfl := hsel.resolve_left h7
  rcases plainOp_cases op hlo hhi h3 h7 with rfl | rfl | rfl | rfl | rfl | rfl
  · exact ⟨.palLoad, rfl⟩
  · exact ⟨.palSave, rfl⟩
  · exact ⟨.palSwatch, rfl⟩
  · exact ⟨.palInval, rfl⟩
  · exact ⟨.lookup, rfl⟩
  · exact ⟨.cv2Dec, rfl⟩

/-- A word is legal exactly when it is some command's (R122, R125). -/
theorem wordLegal_iff_exists_encode {v : Word} : wordLegal v = true ↔ ∃ i, encode i = v := by
  refine ⟨fun h => ?_, fun ⟨i, hi⟩ => hi ▸ wordLegal_encode i⟩
  obtain ⟨-, hres, -⟩ := wordLegal_iff.mp h
  rw [eq_cmdw_of_reservedField hres] at h ⊢
  exact exists_encode_of_wordLegal_cmdw h

theorem decode_error_iff {v : Word} : (∃ r, decode v = .error r) ↔ wordLegal v = false := by
  rw [← Bool.not_eq_true, wordLegal_iff_exists_encode]
  simp only [← decode_eq_ok_iff]
  cases decode v <;> simp

/-- The conditions of R125, one for each must-be-zero rule. -/
theorem wordLegal_eq_false_iff {v : Word} : wordLegal v = false ↔
    (v.extractLsb' 0 4 = 0#4 ∨ 9#4 ≤ v.extractLsb' 0 4) ∨ v.extractLsb' 16 16 ≠ 0#16 ∨ v.extractLsb' 6 2 ≠ 0#2 ∨
    (v.extractLsb' 0 4 ≠ 3#4 ∧ v.extractLsb' 8 8 ≠ 0#8) ∨ (v.extractLsb' 0 4 ≠ 7#4 ∧ v.extractLsb' 4 2 ≠ 0#2) := by
  have hop : ∀ op : BitVec 4, (1#4 ≤ op ∧ op ≤ 8#4) ↔ ¬ (op = 0#4 ∨ 9#4 ≤ op) := by decide
  rw [← Bool.not_eq_true, wordLegal_iff, reservedField_eq_zero_iff, hop]
  simp only [opField, tField, dselField]
  tauto

/-! ### The mask and match table (R126) -/

/-- A row that masks nothing out matches its own word alone. -/
theorem hits_fullMask_iff {name : String} {w v : Word} : (OpcodeRow.mk name 0xFFFFFFFF#32 w).hits v = true ↔ v = w := by
  have hmask : v &&& 0xFFFFFFFF#32 = v := BitVec.and_allOnes
  rw [OpcodeRow.hits, hmask, beq_iff_eq]

/-- PAL_SET's mask keeps every field but T. -/
theorem and_palSetMask_fields (v : Word) :
    opField (v &&& 0xFFFF00FF#32) = opField v ∧ dselField (v &&& 0xFFFF00FF#32) = dselField v ∧
    tField (v &&& 0xFFFF00FF#32) = 0 ∧ reservedField (v &&& 0xFFFF00FF#32) = reservedField v := by
  simp only [opField, dselField, tField, reservedField, BitVec.extractLsb'_and]
  exact ⟨BitVec.and_allOnes, BitVec.and_allOnes, BitVec.and_zero, congrArg₂ _ BitVec.and_allOnes BitVec.and_allOnes⟩

theorem hits_palSetMask_iff {name : String} {v : Word} :
    (OpcodeRow.mk name 0xFFFF00FF#32 3#32).hits v = true ↔ ∃ t, encode (.palSet t) = v := by
  obtain ⟨hop, hsel, himm, hres⟩ := and_palSetMask_fields v
  rw [OpcodeRow.hits, beq_iff_eq]
  constructor
  · intro (h : v &&& 0xFFFF00FF#32 = cmdw 3 0 0)
    rw [h, opField_cmdw] at hop
    rw [h, dselField_cmdw] at hsel
    rw [h, reservedField_cmdw] at hres
    have hv := eq_cmdw_of_reservedField hres.symm
    rw [← hop, ← hsel] at hv
    exact ⟨tField v, hv.symm⟩
  · rintro ⟨t, rfl⟩
    have hv := eq_cmdw_of_reservedField (hres.trans (reservedField_cmdw 3 0 t))
    rwa [hop, hsel, himm, encode, opField_cmdw, dselField_cmdw] at hv

theorem encode_palSet_ne {w : Word} (hw : w.extractLsb' 0 4 ≠ 3#4) (t : Byte) : encode (.palSet t) ≠ w := by
  rintro rfl
  exact hw (cmdw_fields 3 0 t).1

theorem exists_encode_of_hits {r : OpcodeRow} {v : Word} (hr : r ∈ opcodeRows) (h : r.hits v = true) :
    ∃ i, encode i = v := by
  simp only [opcodeRows, List.cons_append, List.nil_append, List.mem_cons, List.not_mem_nil, or_false] at hr
  rcases hr with rfl | rfl | rfl | rfl | rfl | rfl | rfl | rfl | rfl | rfl | rfl
  case inr.inr.inl =>
    obtain ⟨t, ht⟩ := hits_palSetMask_iff.mp h
    exact ⟨_, ht⟩
  all_goals obtain rfl := hits_fullMask_iff.mp h
  · exact ⟨.palLoad, rfl⟩
  · exact ⟨.palSave, rfl⟩
  · exact ⟨.palSwatch, rfl⟩
  · exact ⟨.palInval, rfl⟩
  · exact ⟨.lookup, rfl⟩
  · exact ⟨.cv2Enc8, rfl⟩
  · exact ⟨.cv2Enc16, rfl⟩
  · exact ⟨.cv2Enc24, rfl⟩
  · exact ⟨.cv2Enc32, rfl⟩
  · exact ⟨.cv2Dec, rfl⟩

/-- A command's word matches one row: PAL_SET's for every T, and of the others the OP and DSEL tell the rows apart. -/
theorem filter_hits_encode_length (i : Instr) : (opcodeRows.filter fun r => r.hits (encode i)).length = 1 := by
  cases i
  case palSet t =>
    have hne : ∀ (name : String) (w : Word), w.extractLsb' 0 4 ≠ 3#4 →
        (OpcodeRow.mk name 0xFFFFFFFF#32 w).hits (encode (.palSet t)) = false := fun name w hw =>
      Bool.eq_false_iff.mpr fun h => encode_palSet_ne hw t (hits_fullMask_iff.mp h)
    have hself := hits_palSetMask_iff (name := "PAL_SET").mpr ⟨t, rfl⟩
    simp [opcodeRows, hne, hself]
  all_goals rfl

end Sys2Proof

/-! SUPPORT. A command's way into the engine (R121): the CMD write that issues it, and the word the next step runs. -/

namespace Sys2Proof.Machine

theorem State.issue_of_decode {s : State} {v : Word} {i : Instr} (h : decode v = .ok i) :
    s.issue v = { s.accept v with wait := s.latencies.headD 0, latencies := s.latencies.tail } := by
  rw [State.issue, h]

theorem regOffset_aligned (r : Reg) : (regOffset r).toNat % 4 = 0 := by
  cases r
  case pal i =>
    rw [regOffset_pal_toNat]
    omega
  all_goals rfl

/-- A host's register write is its whole turn: the write itself while IDLE, nothing while BUSY (R45). -/
theorem step_regWrite {s : State} {r : Reg} {v : Word} {rest : List HostOp} (ht : s.engineTurn = false)
    (hs : s.script = scriptWrite r v :: rest) :
    step s = .next (if s.engine = .busy then s.hostTurn rest else (s.hostTurn rest).writeReg r v) := by
  rw [step_host_cons ht hs, scriptWrite, hostPerform, hostRegWrite,
    if_pos (accessWellFormed_iff.mpr ⟨rfl, regOffset_aligned r⟩), State.writeOffset_regOffset]
  rfl

theorem State.withFetchWord_engineTurn (s : State) (n w : Nat) : (s.withFetchWord n w).engineTurn = true :=
  State.engineTurn_iff.mpr ⟨rfl, .inl rfl⟩

theorem State.withFetchWord_latch_cmd (s : State) (n w : Nat) :
    (s.withFetchWord n w).latch.cmd = BitVec.ofNat 32 (w % 2 ^ n) := rfl

end Sys2Proof.Machine

section
open Sys2Proof Sys2Proof.Machine

/-- Settles O1: the decoder undoes the encoder, and a word that decodes to a command is laid out as that command's. -/
theorem everyCommandHasExactlyOneWord : Obligations.EveryCommandHasExactlyOneWord := by
  unfold Obligations.EveryCommandHasExactlyOneWord
  exact ⟨fun i _ => decode_encode i, fun _ i h => ⟨i.wellFormed_eq_true, decode_eq_ok_iff.mp h⟩⟩

/-- Settles O2: the rejected words are those that are no command's encoding, and the engine's turn only finishes them. -/
theorem illegalWordsAreThoseOfTheMustBeZeroRules : Obligations.IllegalWordsAreThoseOfTheMustBeZeroRules := by
  unfold Obligations.IllegalWordsAreThoseOfTheMustBeZeroRules
  refine ⟨fun v => decode_error_iff.trans wordLegal_eq_false_iff, fun s r hturn hdec => ?_⟩
  rw [step_engine hturn, engineStep_error hdec]
  rfl

/-- Settles O3: a legal word is a command's, which matches its own row alone; a word that matches a row is a command's. -/
theorem legalWordMatchesExactlyOneRow : Obligations.LegalWordMatchesExactlyOneRow := by
  unfold Obligations.LegalWordMatchesExactlyOneRow
  refine ⟨fun v => ?_, by decide⟩
  split
  · rename_i hlegal
    obtain ⟨i, rfl⟩ := wordLegal_iff_exists_encode.mp hlegal
    exact filter_hits_encode_length i
  · rename_i hillegal
    rw [List.length_eq_zero_iff, List.filter_eq_nil_iff]
    exact fun r hr h => hillegal (wordLegal_iff_exists_encode.mpr (exists_encode_of_hits hr h))

/-- Settles O6: the write is the host's turn; while IDLE it issues the word with the legal word's latency, while BUSY the
register window ignores it. -/
theorem cmdWriteIssuesTheCommand : Obligations.CmdWriteIssuesTheCommand := by
  unfold Obligations.CmdWriteIssuesTheCommand
  intro s v rest hs
  refine ⟨fun i hidle hdec => ?_, fun hbusy hwait => ?_⟩
  · rw [step_regWrite (r := .cmd) (State.engineTurn_of_idle hidle) hs, if_neg (by simp [hidle]), State.writeReg,
      State.issue_of_decode hdec]
    rfl
  · rw [step_regWrite (r := .cmd) (State.engineTurn_of_wait hwait (by simp [hs])) hs, if_pos hbusy]
    rfl

/-- Settles O4: eleven of the words are the encodings of their commands; the five illegal ones are evaluated. -/
theorem listedWordsDecodeAsListed : Obligations.ListedWordsDecodeAsListed := by
  unfold Obligations.ListedWordsDecodeAsListed
  exact ⟨decode_encode .palLoad, decode_encode .palSave, decode_encode (.palSet 0x2A), decode_encode .palSwatch,
    decode_encode .palInval, decode_encode .lookup, decode_encode .cv2Enc8, decode_encode .cv2Enc16,
    decode_encode .cv2Enc24, decode_encode .cv2Enc32, decode_encode .cv2Dec, by decide⟩

/-- Settles O5: at the engine's turn the step is the execution of what the latched word decodes to, and `withFetchWord`
latches a word of 32 bits as it is. -/
theorem stepRunsTheLatchedCommand : Obligations.StepRunsTheLatchedCommand := by
  unfold Obligations.StepRunsTheLatchedCommand
  refine ⟨fun s i hbusy hturn hdec => ?_, fun s w i hw hdec => ?_⟩
  · rw [step_engine (State.engineTurn_iff.mpr ⟨hbusy, hturn⟩), engineStep_ok hdec]
  · have hword : decode (s.withFetchWord 32 w).latch.cmd = .ok i := by
      rwa [State.withFetchWord_latch_cmd, Nat.mod_eq_of_lt hw]
    rw [step_engine (s.withFetchWord_engineTurn 32 w), engineStep_ok hword]

end

/-! SUPPORT. The packed-16 codec in arithmetic (40_palette.md R150-R152): each field of a packed word as a number. -/

namespace Sys2Proof.Machine

theorem extractLsb'_toNat_div {n : Nat} (v : BitVec n) (start len : Nat) :
    (v.extractLsb' start len).toNat = v.toNat / 2 ^ start % 2 ^ len := by
  rw [BitVec.extractLsb'_toNat, Nat.shiftRight_eq_div_pow]

/-- A five-bit field widened to a channel is 8 times the field. -/
theorem unpackedChannel_toNat (x : BitVec 5) : (x.zeroExtend 8 <<< 3).toNat = x.toNat * 8 := by
  have := x.isLt
  simp only [BitVec.toNat_shiftLeft, BitVec.zeroExtend, BitVec.toNat_setWidth, Nat.shiftLeft_eq]
  omega

/-- Bit 15 of a packed word as a number. -/
theorem alphaFlag_iff (w : Half) : w.getLsbD 15 = true ↔ w.toNat / 32768 = 1 := by
  have := w.isLt
  rw [BitVec.getLsbD, Nat.testBit_eq_decide_div_mod_eq, decide_eq_true_iff]
  omega

theorem fromPacked16_r_toNat (w : Half) : (fromPacked16 w).r.toNat = w.toNat / 1024 % 32 * 8 :=
  (unpackedChannel_toNat _).trans (by rw [extractLsb'_toNat_div]; rfl)

theorem fromPacked16_g_toNat (w : Half) : (fromPacked16 w).g.toNat = w.toNat / 32 % 32 * 8 :=
  (unpackedChannel_toNat _).trans (by rw [extractLsb'_toNat_div]; rfl)

theorem fromPacked16_b_toNat (w : Half) : (fromPacked16 w).b.toNat = w.toNat % 32 * 8 :=
  (unpackedChannel_toNat _).trans (by rw [extractLsb'_toNat_div, pow_zero, Nat.div_one]; rfl)

theorem fromPacked16_a (w : Half) : (fromPacked16 w).a = if w.toNat / 32768 = 1 then 255 else 0 := by
  simp only [fromPacked16, alphaFlag_iff]

theorem toPacked16_toNat (c : Color) : (toPacked16 c).toNat =
    (if c.a = 0 then 0 else 1) * 32768 + c.r.toNat / 8 * 1024 + c.g.toNat / 8 * 32 + c.b.toNat / 8 := by
  have hflag : (c.a != 0).toNat = if c.a = 0 then 0 else 1 := by
    by_cases ha : c.a = 0
    · rw [ha]; rfl
    · rw [if_neg ha, bne_iff_ne.mpr ha]; rfl
  have hr := c.r.isLt
  have hg := c.g.isLt
  have hb := c.b.isLt
  simp only [toPacked16, toNat_append_eq, BitVec.toNat_ofBool, extractLsb'_toNat_div, hflag]
  omega

/-- Masking to the top five bits (R152). -/
theorem and_topFive_toNat : ∀ b : Byte, (b &&& 0xF8).toNat = b.toNat / 8 * 8 := by decide

/-- R152(a). -/
theorem toPacked16_fromPacked16 (w : Half) : toPacked16 (fromPacked16 w) = w := by
  have hw := w.isLt
  have halpha : (if (fromPacked16 w).a = 0 then 0 else 1) = w.toNat / 32768 := by
    rw [fromPacked16_a]
    by_cases h : w.toNat / 32768 = 1
    · simp [h]
    · simp only [h, if_false, if_true]
      omega
  apply BitVec.eq_of_toNat_eq
  rw [toPacked16_toNat, halpha, fromPacked16_r_toNat, fromPacked16_g_toNat, fromPacked16_b_toNat]
  omega

theorem Color.eq_of_channels {c d : Color} (hr : c.r.toNat = d.r.toNat) (hg : c.g.toNat = d.g.toNat)
    (hb : c.b.toNat = d.b.toNat) (ha : c.a = d.a) : c = d := by
  cases c
  cases d
  rw [Color.mk.injEq]
  exact ⟨BitVec.eq_of_toNat_eq hr, BitVec.eq_of_toNat_eq hg, BitVec.eq_of_toNat_eq hb, ha⟩

/-- R152(b). -/
theorem fromPacked16_toPacked16 (c : Color) : fromPacked16 (toPacked16 c) =
    ⟨c.r &&& 0xF8, c.g &&& 0xF8, c.b &&& 0xF8, if c.a = 0 then 0 else 255⟩ := by
  have hr := c.r.isLt
  have hg := c.g.isLt
  have hb := c.b.isLt
  have hp := toPacked16_toNat c
  have halpha : (toPacked16 c).toNat / 32768 = if c.a = 0 then 0 else 1 := by omega
  apply Color.eq_of_channels
  · rw [fromPacked16_r_toNat, and_topFive_toNat]
    omega
  · rw [fromPacked16_g_toNat, and_topFive_toNat]
    omega
  · rw [fromPacked16_b_toNat, and_topFive_toNat]
    omega
  · rw [fromPacked16_a, halpha]
    by_cases ha : c.a = 0 <;> simp [ha]

end Sys2Proof.Machine

section
open Sys2Proof.Machine

/-- Settles O10: each field of a packed word is a quotient and a remainder, and packing adds the fields up. -/
theorem packedColourArithmetic : Obligations.PackedColourArithmetic := by
  unfold Obligations.PackedColourArithmetic
  refine ⟨fun w => ⟨fromPacked16_r_toNat w, fromPacked16_g_toNat w, fromPacked16_b_toNat w, ?_⟩, toPacked16_toNat⟩
  rw [fromPacked16_a, apply_ite BitVec.toNat]
  rfl

/-- Settles O11, by the arithmetic of the two conversions. -/
theorem packedColourRoundTrips : Obligations.PackedColourRoundTrips :=
  ⟨toPacked16_fromPacked16, fromPacked16_toPacked16⟩

end

/-! SUPPORT. What every command leaves unchanged when it completes, and how its windows stop it
(10_state.md R53, 20_memory.md R98, R99, 60_exceptions.md R303, R304). -/

namespace Sys2Proof.Machine

/-! ### Completion -/

theorem exec_of_commonPass {i : Instr} {s : State} (hc : CommonPass i s) (ho : firstError (ownChecks i s) = none) :
    exec i s = .next ((effectOf i s).finish .none) :=
  exec_of_checks hc.1 hc.2 ho

theorem effectOf_keptByCommands (i : Instr) (s : State) : KeptByCommands s (effectOf i s) := by
  unfold KeptByCommands
  cases i
  case cv2Dec =>
    simp only [effectOf, decodeEffect]
    split <;> simp
  all_goals simp [effectOf]

/-- A command that no check stops completes (R303). -/
theorem effectOf_completes (i : Instr) (s : State) : Completes s ((effectOf i s).finish .none) :=
  ⟨rfl, rfl, rfl, rfl, effectOf_keptByCommands i s⟩

/-- A command with no destination window has no output (R98). -/
theorem effectOf_noOutput (i : Instr) (s : State) (h : usesDst i = false) :
    NoOutput s ((effectOf i s).finish .none) := by
  unfold NoOutput SameMemory SameImageRegs
  cases i with
  | palLoad | palSet | palSwatch | palInval | lookup => simp [effectOf]
  | palSave | cv2Enc8 | cv2Enc16 | cv2Enc24 | cv2Enc32 | cv2Dec => cases h

/-- Only LOOKUP writes RESULT (R43). -/
theorem effectOf_sameResult (i : Instr) (s : State) (h : i ≠ .lookup) :
    SameResult s ((effectOf i s).finish .none) := by
  unfold SameResult
  cases i
  case lookup => exact absurd rfl h
  case cv2Dec =>
    simp only [effectOf, decodeEffect]
    split <;> simp
  all_goals simp [effectOf]

/-! ### Errors of the windows -/

theorem failsWith_srcOutside {i : Instr} {s : State} (hsrc : usesSrc i = true) (hdst : usesDst i = false)
    (h : ¬ SrcInside s) : FailsWith i s .range :=
  failsWith_of_common (commonChecks_range (.inl hdst) (.inl ⟨hsrc, h⟩))

theorem failsWith_dstOutside {i : Instr} {s : State} (hdst : usesDst i = true) (ho : s.dstOcc = false)
    (h : ¬ DstInside s) : FailsWith i s .range :=
  failsWith_of_common (commonChecks_range (.inr ho) (.inr (.inl ⟨hdst, h⟩)))

theorem commonPass_of_dstInside {i : Instr} {s : State} (hsrc : usesSrc i = false) (ho : s.dstOcc = false)
    (hd : DstInside s) : CommonPass i s :=
  ⟨.inr ho, by simp [RangeFails, hsrc, hd]⟩

/-- A command that uses no window passes the common checks. -/
theorem commonPass_of_no_window {i : Instr} {s : State} (hsrc : usesSrc i = false) (hdst : usesDst i = false) :
    CommonPass i s :=
  ⟨.inl hdst, by simp [RangeFails, hsrc, hdst]⟩

end Sys2Proof.Machine

/-! SUPPORT. The palette commands (40_palette.md): the own checks of each in their order, when each completes with its
effect, and what a loaded or saved entry is. -/

namespace Sys2Proof.Machine

/-! ### The checks of each command -/

theorem ownChecks_palLoad (s : State) :
    firstError (ownChecks .palLoad s) = if s.latch.srcLen.toNat < 513 then some .format else none :=
  firstError_step decide_eq_true_iff rfl

/-- A PAL_LOAD that no check stops completes with its effect. -/
theorem exec_palLoad_of_ready {s : State} (hsrc : SrcInside s) (hlen : 513 ≤ s.latch.srcLen.toNat) :
    exec .palLoad s = .next ((palLoadEffect s).finish .none) :=
  exec_of_commonPass (commonPass_of_srcInside rfl hsrc) (by rw [ownChecks_palLoad, if_neg (by omega)])

theorem ownChecks_palSave (s : State) :
    firstError (ownChecks .palSave s) =
      if s.palValid = false then some .missingPalette
      else if s.latch.dstCap.toNat < 513 then some .capacity
      else none :=
  firstError_step (by simp) (firstError_step decide_eq_true_iff rfl)

/-- A PAL_SAVE that no check stops completes with its effect. -/
theorem exec_palSave_of_ready {s : State} (ho : s.dstOcc = false) (hd : DstInside s) (hpv : s.palValid = true)
    (hcap : 513 ≤ s.latch.dstCap.toNat) : exec .palSave s = .next ((palSaveEffect s).finish .none) :=
  exec_of_commonPass (commonPass_of_dstInside rfl ho hd)
    (by rw [ownChecks_palSave, if_neg (by simp [hpv]), if_neg (by omega)])

theorem ownChecks_palSet (imm : Byte) (s : State) :
    firstError (ownChecks (.palSet imm) s) = if s.latch.srcLen.toNat < 1024 then some .format else none :=
  firstError_step decide_eq_true_iff rfl

/-- A PAL_SET that no check stops completes with its effect. -/
theorem exec_palSet_of_ready {s : State} (imm : Byte) (hsrc : SrcInside s) (hlen : 1024 ≤ s.latch.srcLen.toNat) :
    exec (.palSet imm) s = .next ((palSetEffect imm s).finish .none) :=
  exec_of_commonPass (commonPass_of_srcInside rfl hsrc) (by rw [ownChecks_palSet, if_neg (by omega)])

theorem swatchSizeLegal_iff {w h : Word} :
    swatchSizeLegal w h = true ↔ (w = 16 ∧ h = 16) ∨ (w = 32 ∧ h = 32) := by
  simp [swatchSizeLegal]

theorem ownChecks_palSwatch (s : State) :
    firstError (ownChecks .palSwatch s) =
      if swatchSizeLegal s.latch.width s.latch.height = false then some .invalidSize
      else if s.latch.srcLen.toNat < s.latch.width.toNat * s.latch.height.toNat * 4 then some .format
      else none :=
  firstError_step (by simp) (firstError_step decide_eq_true_iff rfl)

/-- A PAL_SWATCH that no check stops completes with its effect. -/
theorem exec_palSwatch_of_ready {s : State} (hsrc : SrcInside s)
    (hsize : swatchSizeLegal s.latch.width s.latch.height = true)
    (hlen : s.latch.width.toNat * s.latch.height.toNat * 4 ≤ s.latch.srcLen.toNat) :
    exec .palSwatch s = .next ((palSwatchEffect s).finish .none) :=
  exec_of_commonPass (commonPass_of_srcInside rfl hsrc)
    (by rw [ownChecks_palSwatch, if_neg (by simp [hsize]), if_neg (by omega)])

/-! ### PAL_LOAD -/

/-- A palette word by its two bytes, as offsets into the image (R90). -/
theorem Memory.palWord_eq (m : Memory) (src i : Nat) :
    m.palWord src i = le16 (m.read (src + 1 + 2 * i)) (m.read (src + 2 + 2 * i)) := by
  rw [Memory.palWord, Memory.half, show src + 1 + 2 * i + 1 = src + 2 + 2 * i by omega]

/-- Where a word has bit 15 clear and every later one has it set, PAL_LOAD takes that word's index (R160). -/
theorem palWords_fold_last {m : Memory} {src : Nat} {i : Fin 256} (hi : (m.palWord src i).getLsbD 15 = false)
    (hlater : ∀ j : Fin 256, i < j → (m.palWord src j).getLsbD 15 = true) :
    transparentFold (palWords m src) 0 (0#8, false) = (BitVec.ofFin i, true) := by
  have hlen := palWords_length m src
  have h := (transparentFold_spec (palWords m src) 0 (0#8, false)).2 i (by omega)
    (by rwa [palWords_getElem]) fun j hj hij => by
      rw [palWords_getElem]
      exact hlater ⟨j, by omega⟩ hij
  have hindex : BitVec.ofNat 8 i = BitVec.ofFin i := BitVec.eq_of_toNat_eq (Nat.mod_eq_of_lt i.isLt)
  rw [h, Nat.zero_add, hindex]

/-- Where every word has bit 15 set, no entry is transparent (R160). -/
theorem palWords_fold_none {m : Memory} {src : Nat} (h : ∀ i : Fin 256, (m.palWord src i).getLsbD 15 = true) :
    transparentFold (palWords m src) 0 (0#8, false) = (0#8, false) :=
  (transparentFold_spec (palWords m src) 0 (0#8, false)).1 fun w hw => by
    obtain ⟨i, hi, rfl⟩ := List.mem_map.mp hw
    exact h ⟨i, List.mem_range.mp hi⟩

/-- PAL_LOAD reads of memory the palette words only. -/
theorem palLoadEffect_withMem {s : State} {m : Memory}
    (h : ∀ i, m.palWord s.latch.srcAddr.toNat i = s.mem.palWord s.latch.srcAddr.toNat i) :
    palLoadEffect (s.withMem m) = (palLoadEffect s).withMem m := by
  have hwords : m.palWord s.latch.srcAddr.toNat = s.mem.palWord s.latch.srcAddr.toNat := funext h
  simp only [palLoadEffect, palWords, State.withMem, State.srcWindow, hwords]

/-- The marker is no part of a palette word (R90, R156). -/
theorem Memory.palWord_write_marker (m : Memory) (src : Nat) (marker : Byte) (i : Nat) :
    (m.write src marker).palWord src i = m.palWord src i := by
  simp only [Memory.palWord_eq, Memory.read_write]
  rw [if_neg (by omega), if_neg (by omega)]

/-! ### PAL_SAVE -/

/-- Palette word `i` of the image PAL_SAVE has written (R90, R163). -/
theorem palImage_readBytes_entry (m : Memory) (dst : Nat) (pal : Vector Color 256) (i : Fin 256) :
    (m.writeBytes dst (palImage pal)).readBytes (dst + (1 + 2 * i.val)) 2 = bytesLE16 (toPacked16 (pal.get i)) := by
  rw [Memory.readBytes_writeBytes _ _ _ _ _ (by rw [palImage_length]; omega), palImage_slice]

theorem le16_low (b0 b1 : Byte) : (le16 b0 b1).extractLsb' 0 8 = b0 :=
  BitVec.extractLsb'_append_eq_right

theorem le16_high (b0 b1 : Byte) : (le16 b0 b1).extractLsb' 8 8 = b1 :=
  BitVec.extractLsb'_append_eq_left

theorem palImage_marker (m : Memory) (dst : Nat) (pal : Vector Color 256) :
    (m.writeBytes dst (palImage pal)).read dst = 0x10 :=
  m.read_writeBytes_of_lt dst (palImage pal) 0 (by simp)

/-- The two bytes of entry `i` in the image PAL_SAVE has written (R90, R163). -/
theorem palImage_entry (m : Memory) (dst : Nat) (pal : Vector Color 256) (i : Fin 256) :
    (m.writeBytes dst (palImage pal)).read (dst + 1 + 2 * i.val) = (toPacked16 (pal.get i)).extractLsb' 0 8 ∧
    (m.writeBytes dst (palImage pal)).read (dst + 2 + 2 * i.val) = (toPacked16 (pal.get i)).extractLsb' 8 8 := by
  have h := palImage_readBytes_entry m dst pal i
  rw [← Nat.add_assoc] at h
  obtain ⟨hlow, hhigh⟩ := List.cons.inj h
  rw [show dst + 2 + 2 * i.val = dst + 1 + 2 * i.val + 1 by omega]
  exact ⟨hlow, (List.cons.inj hhigh).1⟩

/-- A palette that is unpacked from an image is packed into the bytes of that image again (R152, R164). -/
theorem palImage_entry_of_unpacked {m m' : Memory} {src dst : Nat} {pal : Vector Color 256} {i : Fin 256}
    (h : pal.get i = fromPacked16 (m.palWord src i)) :
    (m'.writeBytes dst (palImage pal)).read (dst + 1 + 2 * i.val) = m.read (src + 1 + 2 * i.val) ∧
    (m'.writeBytes dst (palImage pal)).read (dst + 2 + 2 * i.val) = m.read (src + 2 + 2 * i.val) := by
  obtain ⟨hlow, hhigh⟩ := palImage_entry m' dst pal i
  rw [h, toPacked16_fromPacked16, Memory.palWord_eq] at hlow hhigh
  exact ⟨hlow.trans (le16_low ..), hhigh.trans (le16_high ..)⟩

/-! ### PAL_SET -/

/-- PAL_SET's word for every value of T (R122, R124). -/
theorem encode_palSet : ∀ imm : Byte, encode (.palSet imm) = 0x00000003 ||| (imm.zeroExtend 32 <<< 8) := by
  decide

/-! ### PAL_SWATCH -/

/-- The scaler's addressing for index `row·16 + col` of a swatch `16·scale` pixels wide (R171). -/
theorem swatchOffset_eq {scale row col : Nat} (hcol : col < 16) :
    swatchOffset (16 * scale) (row * 16 + col) = ((row * scale) * (16 * scale) + col * scale) * 4 := by
  have hc : (row * 16 + col) % 16 = col := by omega
  have hr : (row * 16 + col) / 16 = row := by omega
  rw [swatchOffset, pixelOffset, hc, hr, Nat.mul_div_cancel_left _ (by decide)]

/-- A swatch 16 or 32 pixels square has the legal size (R170). -/
theorem swatchSizeLegal_of_scale {scale : Nat} (hscale : scale = 1 ∨ scale = 2) {w h : Word}
    (hw : w.toNat = 16 * scale) (hh : h.toNat = 16 * scale) : swatchSizeLegal w h = true := by
  rw [swatchSizeLegal_iff]
  rcases hscale with rfl | rfl
  · exact .inl ⟨BitVec.eq_of_toNat_eq hw, BitVec.eq_of_toNat_eq hh⟩
  · exact .inr ⟨BitVec.eq_of_toNat_eq hw, BitVec.eq_of_toNat_eq hh⟩

end Sys2Proof.Machine

section
open Sys2Proof Sys2Proof.Machine

/-- Settles O13: the errors are those of the source window and of SRC_LEN; the entries are the unpacked words, and the fold
names the last word with bit 15 clear. -/
theorem palLoadOutcome : Obligations.PalLoadOutcome := by
  unfold Obligations.PalLoadOutcome
  refine ⟨rfl, fun s => ⟨failsWith_srcOutside rfl rfl, fun hsrc hlen => ?_, fun hsrc hlen => ?_⟩⟩
  · exact failsWith_of_own (commonPass_of_srcInside rfl hsrc) (by rw [ownChecks_palLoad, if_pos hlen])
  · refine ⟨_, exec_palLoad_of_ready hsrc hlen, effectOf_completes .palLoad s, effectOf_noOutput .palLoad s rfl,
      effectOf_sameResult .palLoad s nofun, rfl, rfl, fun i => ?_, fun i hclear hlater => ?_, fun hset => ?_⟩
    · rw [← Memory.palWord_eq]
      exact palOf_get ..
    · have hfold := palWords_fold_last hclear hlater
      exact ⟨congrArg (fun t => t.1.toNat) hfold, congrArg Prod.snd hfold⟩
    · exact Prod.mk.inj (palWords_fold_none hset)

/-- Settles O14: no check looks at memory, and a write at the marker's address is outside every palette word. -/
theorem palLoadIgnoresTheMarker : Obligations.PalLoadIgnoresTheMarker := by
  unfold Obligations.PalLoadIgnoresTheMarker
  intro s marker
  rcases exec_cases .palLoad s with ⟨e, hc, h⟩ | ⟨hc, h⟩
  · exact ⟨_, h, (exec_eq ..).trans (runCommand_of_some hc)⟩
  · have heffect := palLoadEffect_withMem (s := s) (s.mem.palWord_write_marker s.latch.srcAddr.toNat marker)
    refine ⟨_, h, (exec_eq ..).trans ((runCommand_of_none hc).trans ?_)⟩
    exact congrArg (fun t => Host.Outcome.next (t.finish .none)) heffect

/-- Settles O15: the errors in the order of the checks; memory is the old one with the 513 bytes of the image written at
DST_ADDR. -/
theorem palSaveOutcome : Obligations.PalSaveOutcome := by
  unfold Obligations.PalSaveOutcome
  refine ⟨rfl, fun s => ⟨failsWith_alreadyExists rfl, failsWith_dstOutside rfl, fun ho hd hpv => ?_,
    fun ho hd hpv hcap => ?_, fun ho hd hpv hcap => ?_⟩⟩
  · exact failsWith_of_own (commonPass_of_dstInside rfl ho hd) (by rw [ownChecks_palSave, if_pos hpv])
  · exact failsWith_of_own (commonPass_of_dstInside rfl ho hd)
      (by rw [ownChecks_palSave, if_neg (by simp [hpv]), if_pos hcap])
  · have houtside : SameMemoryOutside s ((palSaveEffect s).finish .none) s.latch.dstAddr.toNat 513 := fun a ha =>
      Memory.read_writeBytes_of_outside _ _ _ _ (by rwa [palImage_length])
    exact ⟨_, exec_palSave_of_ready ho hd hpv hcap, effectOf_completes .palSave s, ⟨rfl, rfl, rfl, rfl⟩,
      effectOf_sameResult .palSave s nofun, rfl, rfl, rfl, rfl, rfl, rfl, rfl, palImage_marker .., palImage_entry _ _ _,
      houtside⟩

/-- Settles O16: the errors are those of the source window and of SRC_LEN; the entries are the raster's colours. -/
theorem palSetOutcome : Obligations.PalSetOutcome := by
  unfold Obligations.PalSetOutcome
  refine fun s imm => ⟨encode_palSet imm, failsWith_srcOutside rfl rfl, fun hsrc hlen => ?_, fun hsrc hlen => ?_⟩
  · exact failsWith_of_own (commonPass_of_srcInside rfl hsrc) (by rw [ownChecks_palSet, if_pos hlen])
  · exact ⟨_, exec_palSet_of_ready imm hsrc hlen, effectOf_completes (.palSet imm) s,
      effectOf_noOutput (.palSet imm) s rfl, effectOf_sameResult (.palSet imm) s nofun, rfl, rfl, rfl, rfl, palOf_get _⟩

/-- Settles O17: the errors in the order of the checks; each entry but 0 is the colour at the scaler's address. -/
theorem palSwatchOutcome : Obligations.PalSwatchOutcome := by
  unfold Obligations.PalSwatchOutcome
  refine ⟨rfl, fun s => ⟨failsWith_srcOutside rfl rfl, fun hsrc hbad => ?_, fun scale hscale hsrc hw hh => ?_⟩⟩
  · rw [← swatchSizeLegal_iff, Bool.not_eq_true] at hbad
    exact failsWith_of_own (commonPass_of_srcInside rfl hsrc) (by rw [ownChecks_palSwatch, if_pos hbad])
  · have hsize := swatchSizeLegal_of_scale hscale hw hh
    refine ⟨fun hlen => ?_, fun hlen => ?_⟩
    · exact failsWith_of_own (commonPass_of_srcInside rfl hsrc)
        (by rw [ownChecks_palSwatch, if_neg (by simp [hsize]), hw, hh, if_pos hlen])
    · refine ⟨_, exec_palSwatch_of_ready hsrc hsize (by rwa [hw, hh]), effectOf_completes .palSwatch s,
        effectOf_noOutput .palSwatch s rfl, effectOf_sameResult .palSwatch s nofun, rfl, rfl, rfl, rfl, palOf_get _ 0,
        fun k row col hk hcol hkval => ?_⟩
      rw [← swatchOffset_eq hcol, ← hkval, ← hw]
      exact (palOf_get _ k).trans (if_neg fun h => hk (Fin.ext h))

/-- Settles O18: no check can stop PAL_INVAL, and the PAL window reads 0 without a palette. -/
theorem palInvalOutcome : Obligations.PalInvalOutcome := by
  unfold Obligations.PalInvalOutcome
  exact ⟨rfl, fun s => ⟨_, exec_of_commonPass (commonPass_of_no_window rfl rfl) rfl, effectOf_completes .palInval s,
    effectOf_noOutput .palInval s rfl, effectOf_sameResult .palInval s nofun, rfl, rfl, rfl, fun _ => rfl⟩⟩

/-- Settles O20: the store holds the unpacked words of the image, which are packed into the same words again (R152). -/
theorem savedPaletteReproducesLoadedImage : Obligations.SavedPaletteReproducesLoadedImage := by
  unfold Obligations.SavedPaletteReproducesLoadedImage
  intro s u t hsrc hlen hload hpal hvalid ho hd hcap
  cases (exec_palLoad_of_ready hsrc hlen).symm.trans hload
  refine ⟨_, exec_palSave_of_ready ho hd hvalid hcap, rfl, palImage_marker .., fun k hk hk513 => ?_⟩
  have hentry : ∀ i : Fin 256, u.pal.get i = fromPacked16 (s.mem.palWord s.latch.srcAddr.toNat i) := fun i => by
    rw [hpal]
    exact palOf_get ..
  obtain ⟨hlow, hhigh⟩ := palImage_entry_of_unpacked (m' := u.mem) (dst := u.latch.dstAddr.toNat)
    (hentry ⟨(k - 1) / 2, by omega⟩)
  rcases Nat.mod_two_eq_zero_or_one k with heven | hodd
  · have hoffset : ∀ a, a + k = a + 2 + 2 * ((k - 1) / 2) := by omega
    rw [hoffset, hoffset]
    exact hhigh
  · have hoffset : ∀ a, a + k = a + 1 + 2 * ((k - 1) / 2) := by omega
    rw [hoffset, hoffset]
    exact hlow

end

/-! SUPPORT. LOOKUP and its search (41_quantizer.md): what FindIndex returns where the colour is held and where it is not,
when LOOKUP completes with its effect, and the word it leaves in RESULT. -/

namespace Sys2Proof.Machine

/-! ### The search (R200, R202) -/

/-- An index that holds the colour with none below it is the one of `findIndex_cases`: of two such indices neither is below
the other. -/
theorem findIndex_of_lowest {pal : Vector Color 256} {c : Color} {i : Fin 256} (hi : pal.get i = c)
    (hlow : ∀ j : Fin 256, j < i → pal.get j ≠ c) (tidx : Byte) :
    findIndex pal tidx c = (BitVec.ofFin i, true) := by
  obtain ⟨k, hk, hklow, hfind⟩ | ⟨habsent, _⟩ := findIndex_cases pal tidx c
  · obtain rfl : k = i := le_antisymm (not_lt.mp fun h => hklow i h hi) (not_lt.mp fun h => hlow k h hk)
    exact hfind
  · exact absurd hi (habsent i)

theorem findIndex_of_absent {pal : Vector Color 256} {c : Color} (habsent : ∀ i : Fin 256, pal.get i ≠ c)
    (tidx : Byte) : findIndex pal tidx c = (tidx, false) := by
  obtain ⟨k, hk, _⟩ | ⟨_, hfind⟩ := findIndex_cases pal tidx c
  · exact absurd hk (habsent k)
  · exact hfind

/-! ### LOOKUP (R201) -/

theorem ownChecks_lookup (s : State) :
    firstError (ownChecks .lookup s) = if s.palValid = false then some .missingPalette else none :=
  firstError_step (by simp) rfl

/-- A LOOKUP with a palette completes with its effect. -/
theorem exec_lookup_of_ready {s : State} (hpv : s.palValid = true) :
    exec .lookup s = .next ((lookupEffect s).finish .none) :=
  exec_of_commonPass (commonPass_of_no_window rfl rfl) (by rw [ownChecks_lookup, if_neg (by simp [hpv])])

/-- RESULT after LOOKUP is what FindIndex returns, the hit in bit 8 above the index (R43). -/
theorem lookup_result_toNat {s : State} {index : Byte} {hit : Bool}
    (h : findIndex s.pal s.tidx (colorOfWord s.latch.color) = (index, hit)) :
    (((lookupEffect s).finish .none).readReg .result).toNat = hit.toNat * 256 + index.toNat := by
  have hword := State.resultWord_toNat ((lookupEffect s).finish .none)
  rwa [State.finish_resultHit, State.finish_resultIndex, lookupEffect_resultHit, lookupEffect_resultIndex, h] at hword

end Sys2Proof.Machine

section
open Sys2Proof Sys2Proof.Machine

/-- Settles O12: the lowest index that holds the Color is unique, and FindIndex returns it where there is one. -/
theorem findIndexReturnsLowestMatchOrTidx : Obligations.FindIndexReturnsLowestMatchOrTidx := by
  unfold Obligations.FindIndexReturnsLowestMatchOrTidx
  refine fun pal tidx c => ⟨fun i hi hlow => ?_, fun habsent => findIndex_of_absent habsent tidx⟩
  rw [findIndex_of_lowest hi hlow tidx]
  exact ⟨rfl, rfl⟩

/-- Settles O19: the palette is the only check; RESULT is the word of what FindIndex returns for the latched COLOR. -/
theorem lookupOutcome : Obligations.LookupOutcome := by
  unfold Obligations.LookupOutcome
  refine ⟨rfl, fun s => ⟨fun hpv => ?_, fun hpv => ?_⟩⟩
  · exact failsWith_of_own (commonPass_of_no_window rfl rfl) (by rw [ownChecks_lookup, if_pos hpv])
  · refine ⟨_, exec_lookup_of_ready hpv, effectOf_completes .lookup s, effectOf_noOutput .lookup s rfl,
      ⟨rfl, rfl, rfl, rfl⟩, rfl, fun i hi hlow => ?_, fun habsent => ?_⟩
    · have hresult := lookup_result_toNat (findIndex_of_lowest hi (hi ▸ hlow) s.tidx)
      have hbound := i.isLt
      apply BitVec.eq_of_toNat_eq
      rw [hresult, BitVec.toNat_ofNat, Bool.toNat_true, BitVec.toNat_ofFin]
      omega
    · apply BitVec.eq_of_toNat_eq
      rw [lookup_result_toNat (findIndex_of_absent habsent s.tidx), zeroExtend_byte_toNat, Bool.toNat_false]
      omega

end

/-! SUPPORT. CV2_ENC.n (42_cv2_encode.md): where the header and each packed pixel stand in the image it writes, how it
completes, and what CV2_DEC makes of that image. -/

namespace Sys2Proof.Machine

/-! ### The image in memory (R220, R222) -/

theorem encodeImage_readBytes_header (m : Memory) (dst : Nat) (d : Depth) (s : State) :
    (m.writeBytes dst (encodeImage d s)).readBytes dst 17 = cv2Header d s.latch.width s.latch.height :=
  (m.readBytes_writeBytes dst (encodeImage d s) 0 17 (by rw [encodeImage_length, cv2Size]; omega)).trans rfl

/-- Pixel (x, y) follows the 17 header bytes at `(y·W + x)·psize` (R93). -/
theorem encodeImage_readBytes_pixel (m : Memory) (dst : Nat) (d : Depth) (s : State) {x y : Nat}
    (hx : x < s.latch.width.toNat) (hy : y < s.latch.height.toNat) :
    (m.writeBytes dst (encodeImage d s)).readBytes (dst + 17 + (y * s.latch.width.toNat + x) * psize d) (psize d) =
      packPixel d s.pal s.tidx (s.mem.color (s.latch.srcAddr.toNat + (y * s.latch.width.toNat + x) * 4)) := by
  have hfits := pixel_in_raster hx hy (psize d)
  rw [Nat.add_assoc, Memory.readBytes_writeBytes _ _ _ _ _ (by rw [encodeImage_length, cv2Size]; omega), encodeImage,
    ← cv2Header_length d s.latch.width s.latch.height, List.drop_append, List.drop_eq_nil_of_le (by omega)]
  rw [Nat.add_sub_cancel_left, List.nil_append]
  exact encodeBody_slice d s _ _ _ x y hx hy

/-- The raster of `s` has been packed at depth `d` after the header in the destination of `t` (R220). -/
def PixelsPacked (d : Depth) (s t : State) : Prop :=
  ∀ x y, x < s.latch.width.toNat → y < s.latch.height.toNat →
    t.mem.readBytes (s.latch.dstAddr.toNat + 17 + (y * s.latch.width.toNat + x) * psize d) (psize d) =
      packPixel d s.pal s.tidx (s.mem.color (s.latch.srcAddr.toNat + (y * s.latch.width.toNat + x) * 4))

/-! ### Completion -/

/-- The memory CV2_ENC.n leaves, as a write to rewrite with: the unifier would write the header out byte by byte. -/
theorem encodeEffect_finish_mem (d : Depth) (s : State) : ((encodeEffect d s).finish .none).mem =
    s.mem.writeBytes s.latch.dstAddr.toNat (encodeImage d s) := by
  rw [State.finish_mem, encodeEffect_mem, State.dstWindow_base]

theorem encodeEffect_result {i : Instr} {d : Depth} {s : State} (hi : encodeDepth i = some d) (h : EncodeReady d s) :
    EncodeResult d s ((encodeEffect d s).finish .none) := by
  obtain ⟨_, _, _, _, _, _, _, _, hcap⟩ := h
  have hcompletes : Completes s ((encodeEffect d s).finish .none) := by
    rw [← (own_of_encodeDepth hi).2]
    exact effectOf_completes i s
  refine ⟨hcompletes, ⟨rfl, rfl, rfl, rfl⟩, ⟨rfl, rfl⟩, rfl, rfl, rfl, rfl, rfl, rfl, ?_, ?_, fun a ha => ?_⟩
  · rw [State.finish_outLen, encodeEffect_outLen]
    exact toNat_ofNat_of_le_word hcap
  · rw [encodeEffect_finish_mem, encodeImage_readBytes_header]
    rfl
  · rw [encodeEffect_finish_mem, Memory.read_writeBytes_of_outside]
    rwa [encodeImage_length]

theorem encodeEffect_pixelsPacked (d : Depth) (s : State) : PixelsPacked d s ((encodeEffect d s).finish .none) := by
  intro x y hx hy
  rw [encodeEffect_finish_mem, encodeImage_readBytes_pixel _ _ _ _ hx hy]

/-- Everything a CV2_ENC.n that no check stops does. -/
theorem exec_encode_outcome {i : Instr} {d : Depth} {s : State} (hi : encodeDepth i = some d) (h : EncodeReady d s) :
    ∃ t, exec i s = .next t ∧ EncodeResult d s t ∧ PixelsPacked d s t :=
  ⟨_, exec_encode_of_ready hi h, encodeEffect_result hi h, encodeEffect_pixelsPacked d s⟩

theorem EncodeResult.header {d : Depth} {s t : State} (h : EncodeResult d s t) :
    t.mem.readBytes s.latch.dstAddr.toNat 17 = cv2Header d s.latch.width s.latch.height := by
  obtain ⟨_, _, _, _, _, _, _, _, _, _, hheader, _⟩ := h
  exact hheader

/-- The first byte of the image names its depth (R222). -/
theorem EncodeResult.read_depthByte {d : Depth} {s t : State} (h : EncodeResult d s t) :
    t.mem.read s.latch.dstAddr.toNat = depthByte d :=
  (List.cons.inj h.header).1

theorem EncodeResult.outLen {d : Depth} {s t : State} (h : EncodeResult d s t) :
    t.outLen.toNat = 17 + s.latch.width.toNat * s.latch.height.toNat * psize d := by
  obtain ⟨_, _, _, _, _, _, _, _, _, hlen, _⟩ := h
  exact hlen

theorem EncodeResult.samePalette {d : Depth} {s t : State} (h : EncodeResult d s t) : SamePalette s t := by
  obtain ⟨_, hpal, _⟩ := h
  exact hpal

/-- The byte of a pixel at depth 8 is what FindIndex returns for it (R223). -/
theorem PixelsPacked.index {s t : State} (h : PixelsPacked .d8 s t) {x y : Nat} (hx : x < s.latch.width.toNat)
    (hy : y < s.latch.height.toNat) :
    t.mem.read (s.latch.dstAddr.toNat + 17 + (y * s.latch.width.toNat + x)) =
      (findIndex s.pal s.tidx (s.mem.color (s.latch.srcAddr.toNat + (y * s.latch.width.toNat + x) * 4))).1 := by
  have hbyte := h x y hx hy
  rw [psize, Nat.mul_one] at hbyte
  exact (List.cons.inj hbyte).1

/-- The own checks of CV2_ENC.n in their order (R227). -/
theorem ownChecks_encode {i : Instr} {d : Depth} (hi : encodeDepth i = some d) (s : State) :
    firstError (ownChecks i s) =
      if d = .d8 ∧ s.palValid = false then some .missingPalette
      else if s32 s.latch.width < 1 ∨ s32 s.latch.height < 1 then some .format
      else if s.latch.srcLen.toNat < s.latch.width.toNat * s.latch.height.toNat * 4 then some .format
      else if s.latch.dstCap.toNat < 17 + s.latch.width.toNat * s.latch.height.toNat * psize d then some .capacity
      else none :=
  (congrArg firstError (congrFun (own_of_encodeDepth hi).1 s)).trans (firstError_encodeChecks d s)

/-! ### Decoding the image again (R229) -/

/-- What a Color becomes when it is packed at a depth and unpacked again (R229, R204). -/
def repacked (d : Depth) (pal : Vector Color 256) (tidx : Byte) (c : Color) : Color :=
  match d with
  | .d8 => pal.get (findIndex pal tidx c).1.toFin
  | .d16 => fromPacked16 (toPacked16 c)
  | .d24 | .d32 => c

theorem unpackPixel_of_packed {d : Depth} {pal : Vector Color 256} {tidx : Byte} {c : Color} {m : Memory} {p : Nat}
    (h : m.readBytes p (psize d) = packPixel d pal tidx c) : unpackPixel d pal m p = repacked d pal tidx c := by
  cases d with
  | d8 =>
    have hbyte : m.read p = (findIndex pal tidx c).1 := (List.cons.inj h).1
    rw [unpackPixel, hbyte, repacked]
  | d16 =>
    have hbytes : [m.read p, m.read (p + 1)] = bytesLE16 (toPacked16 c) := h
    simp only [bytesLE16, List.cons.injEq, and_true] at hbytes
    obtain ⟨hlow, hhigh⟩ := hbytes
    rw [unpackPixel, Memory.half, hlow, hhigh, le16_bytes, repacked]
  | d24 | d32 =>
    have hbytes : [m.read p, m.read (p + 1), m.read (p + 2), m.read (p + 3)] = [c.b, c.g, c.r, c.a] := h
    simp only [List.cons.injEq, and_true] at hbytes
    obtain ⟨hb, hg, hr, ha⟩ := hbytes
    rw [unpackPixel, hb, hg, hr, ha, repacked]

/-- At depth 8 a Color of the palette comes back as it was (R204). -/
theorem repacked_d8_of_held {pal : Vector Color 256} {c : Color} (h : ∃ k : Fin 256, pal.get k = c) (tidx : Byte) :
    repacked .d8 pal tidx c = c := by
  obtain ⟨k, hk, _, hfind⟩ | ⟨habsent, _⟩ := findIndex_cases pal tidx c
  · rw [repacked, hfind]
    exact hk
  · obtain ⟨k, hk⟩ := h
    exact absurd hk (habsent k)

/-- At depth 8 any other Color comes back as `pal[TIDX]` (R204). -/
theorem repacked_d8_of_absent {pal : Vector Color 256} {c : Color} (h : ∀ k : Fin 256, pal.get k ≠ c) (tidx : Byte) :
    repacked .d8 pal tidx c = pal.get tidx.toFin := by
  rw [repacked, findIndex_of_absent h]

/-- Pixel (x, y) of the raster CV2_DEC has written is unpacked from row y, column x of the body (R257). -/
theorem decodeWrites_pixel (d : Depth) {s : State} {x y : Nat} (hst : (headerWidth s).toNat ≤ (headerStride s).toNat)
    (hx : x < (headerWidth s).toNat) (hy : y < (headerHeight s).toNat) :
    ((decodeWrites d s).finish .none).mem.color (s.latch.dstAddr.toNat + (y * (headerWidth s).toNat + x) * 4) =
      unpackPixel d s.pal s.mem (s.latch.srcAddr.toNat + 17 + (y * (headerStride s).toNat + x) * psize d) := by
  have hfits := pixel_in_raster hx hy 4
  apply Color.bytes_injective
  rw [← Memory.readBytes_color, State.finish_mem, decodeWrites_mem, State.dstWindow_base, decodeImage,
    Memory.readBytes_writeBytes _ _ _ _ _ (by rw [decodeBody_length _ _ _ _ _ _ hst]; exact hfits),
    decodeBody_slice _ _ _ _ _ _ _ _ hst hx hy, State.srcWindow_base]

/-- The header fields CV2_DEC reads where a header of R222 stands at its source. -/
theorem header_of_readBytes {d : Depth} {w h : Word} {u : State}
    (hbytes : u.mem.readBytes u.latch.srcAddr.toNat 17 = cv2Header d w h) :
    u.mem.read u.latch.srcAddr.toNat = depthByte d ∧ headerWidth u = w ∧ headerHeight u = h ∧ headerStride u = w := by
  have hfield : ∀ k v, k + 4 ≤ 17 → ((cv2Header d w h).drop k).take 4 = bytesLE32 v →
      u.mem.word (u.latch.srcAddr.toNat + k) = v := fun k v hk hv =>
    Memory.word_of_readBytes (by rw [Memory.readBytes_part _ _ 17 _ _ hk, hbytes, hv])
  exact ⟨(List.cons.inj hbytes).1, hfield 1 w (by decide) rfl, hfield 5 h (by decide) rfl, hfield 9 w (by decide) rfl⟩

/-- A CV2_DEC of the image that CV2_ENC.n left in `t` is stopped by no check. -/
theorem decodeReady_of_encoded {d : Depth} {s t u : State} (hready : EncodeReady d s) (hres : EncodeResult d s t)
    (hmem : u.mem = t.mem) (hvalid : u.palValid = t.palValid) (ho : u.dstOcc = false)
    (haddr : u.latch.srcAddr = s.latch.dstAddr) (hlen : t.outLen.toNat ≤ u.latch.srcLen.toNat) (hsrc : SrcInside u)
    (hdst : DstInside u) (hov : ¬ WindowsOverlap u)
    (hcap : s.latch.width.toNat * s.latch.height.toNat * 4 ≤ u.latch.dstCap.toNat) : DecodeReady d u := by
  obtain ⟨_, _, _, _, hpal, hw, hh, _, _⟩ := hready
  obtain ⟨hbyte, hwidth, hheight, hstride⟩ := header_of_readBytes (u := u) (by rw [hmem, haddr]; exact hres.header)
  obtain ⟨_, _, _, hpv⟩ := hres.samePalette
  rw [hres.outLen] at hlen
  refine ⟨ho, hsrc, hdst, hov, by omega, hbyte, fun hd => ?_, ?_⟩
  · rw [hvalid, hpv, hpal hd]
  · rw [hwidth, hheight, hstride]
    exact ⟨hw, hh, le_rfl, by rw [Nat.mul_comm s.latch.height.toNat]; omega, hcap⟩

end Sys2Proof.Machine

section
open Sys2Proof Sys2Proof.Machine

/-- Settles O30: the header is read back as it was written, so the checks of R265 pass, and each pixel is unpacked from the
bytes it was packed into. -/
theorem decodedImageIsTheEncodedRaster : Obligations.DecodedImageIsTheEncodedRaster := by
  unfold Obligations.DecodedImageIsTheEncodedRaster
  intro i d s t u hi hready hexec hmem hpal hvalid ho haddr hlen hsrc hdst hov hcap
  obtain ⟨t', hexec', hres, hpixels⟩ := exec_encode_outcome hi hready
  cases hexec'.symm.trans hexec
  obtain ⟨hsamePal, _, _, _⟩ := hres.samePalette
  obtain ⟨_, hwidth, hheight, hstride⟩ := header_of_readBytes (u := u) (by rw [hmem, haddr]; exact hres.header)
  refine ⟨_, exec_decode_of_ready
    (decodeReady_of_encoded hready hres hmem hvalid ho haddr hlen hsrc hdst hov hcap), rfl, hwidth, hheight, hstride, rfl,
    fun x y p q hx hy hp hq => ?_⟩
  have hbytes : u.mem.readBytes (u.latch.srcAddr.toNat + 17 + (y * (headerStride u).toNat + x) * psize d) (psize d) =
      packPixel d u.pal s.tidx p := by
    rw [hmem, haddr, hstride, hpal, hsamePal, hp]
    exact hpixels x y hx hy
  have hrepacked : q = repacked d s.pal s.tidx p := by
    rw [hq, ← hwidth, decodeWrites_pixel d (by rw [hwidth, hstride]) (by rwa [hwidth]) (by rwa [hheight]),
      unpackPixel_of_packed hbytes, hpal, hsamePal]
  subst hrepacked
  refine ⟨?_, ?_, ?_⟩
  · rintro (rfl | rfl) <;> rfl
  · rintro rfl
    rfl
  · rintro rfl
    exact ⟨fun h => repacked_d8_of_held h _, fun h => repacked_d8_of_absent h _⟩

/-- Settles O21: the effect is one write of the image at the destination, and the registers. -/
theorem encodeWritesHeaderAndRegisters : Obligations.EncodeWritesHeaderAndRegisters := by
  unfold Obligations.EncodeWritesHeaderAndRegisters
  intro i d s hi hready
  exact ⟨_, exec_encode_of_ready hi hready, encodeEffect_result hi hready⟩

/-- Settles O22: the palette is the first own check; the byte of a pixel is what FindIndex returns for it. -/
theorem encode8WritesPaletteIndices : Obligations.Encode8WritesPaletteIndices := by
  unfold Obligations.Encode8WritesPaletteIndices
  refine ⟨rfl, fun s hc hpv => ?_, fun s hready => ?_⟩
  · exact failsWith_of_own hc (by rw [ownChecks_encode (i := .cv2Enc8) rfl, if_pos ⟨rfl, hpv⟩])
  · obtain ⟨t, hexec, hres, hpixels⟩ := exec_encode_outcome (i := .cv2Enc8) rfl hready
    refine ⟨t, hexec, hres, fun x y p hx hy hp => ?_⟩
    rw [hpixels.index hx hy, ← hp]
    refine ⟨fun k hk hlow => ?_, fun habsent => ?_⟩
    · rw [findIndex_of_lowest hk hlow]
      rfl
    · rw [findIndex_of_absent habsent]

/-- Settles O23: the two bytes of a pixel are its packed colour. -/
theorem encode16WritesPackedColours : Obligations.Encode16WritesPackedColours := by
  unfold Obligations.Encode16WritesPackedColours
  refine ⟨rfl, fun s hready => ?_⟩
  obtain ⟨t, hexec, hres, hpixels⟩ := exec_encode_outcome (i := .cv2Enc16) rfl hready
  exact ⟨t, hexec, hres, fun x y p hx hy hp => hp ▸ hpixels x y hx hy⟩

/-- Settles O24: the header byte is the depth's, and the four bytes of a pixel are its channels. -/
theorem encode24WritesFourBytesPerPixel : Obligations.Encode24WritesFourBytesPerPixel := by
  unfold Obligations.Encode24WritesFourBytesPerPixel
  refine ⟨rfl, fun s hready => ?_⟩
  obtain ⟨t, hexec, hres, hpixels⟩ := exec_encode_outcome (i := .cv2Enc24) rfl hready
  exact ⟨t, hexec, hres, hres.read_depthByte, fun x y p hx hy hp => hp ▸ hpixels x y hx hy⟩

/-- Settles O25: the header byte is the depth's, and the four bytes of a pixel are its channels. -/
theorem encode32WritesFourBytesPerPixel : Obligations.Encode32WritesFourBytesPerPixel := by
  unfold Obligations.Encode32WritesFourBytesPerPixel
  refine ⟨rfl, fun s hready => ?_⟩
  obtain ⟨t, hexec, hres, hpixels⟩ := exec_encode_outcome (i := .cv2Enc32) rfl hready
  exact ⟨t, hexec, hres, hres.read_depthByte, fun x y p hx hy hp => hp ▸ hpixels x y hx hy⟩

/-- Settles O26: the common checks come first; once both dimensions are at least 1 their s32 product is the unsigned one the
other checks compare. -/
theorem encodeErrorsInOrder : Obligations.EncodeErrorsInOrder := by
  unfold Obligations.EncodeErrorsInOrder
  intro i d s hi
  have hown := ownChecks_encode hi s
  have hdst := (usesSrc_of_encodeDepth hi).2
  refine ⟨failsWith_alreadyExists hdst, fun ho hr => failsWith_of_common (commonChecks_range (.inr ho) hr),
    fun hc hpal => ?_, fun hc hpal hdim => ?_, fun hc hpal hw hh => ?_⟩
  · exact failsWith_of_own hc (by rw [hown, if_pos hpal])
  · exact failsWith_of_own hc (by rw [hown, if_neg hpal, if_pos hdim])
  · rw [if_neg hpal, if_neg (by omega)] at hown
    rw [s32_mul_eq_toNat hw hh]
    norm_cast
    refine ⟨fun hlen => ?_, fun hlen => ⟨fun hcap => ?_, fun hcap => ?_⟩⟩
    · exact failsWith_of_own hc (by rw [hown, if_pos hlen])
    · exact failsWith_of_own hc (by rw [hown, if_neg (by omega), if_pos hcap])
    · exact ⟨_, exec_of_commonPass hc (by rw [hown, if_neg (by omega), if_neg (by omega)]), rfl⟩

end

/-! SUPPORT. CV2_DEC (43_cv2_decode.md): its own checks once the header names a depth, what it leaves when no check stops it,
and how it runs in another memory that holds the same header and the same raster. -/

namespace Sys2Proof.Machine

/-! ### The checks (R265) -/

/-- The bitDepth byte is checked against the four depths (R252). -/
theorem headerDepth_eq_none {s : State} :
    headerDepth s = none ↔ ∀ d, s.mem.read s.latch.srcAddr.toNat ≠ depthByte d :=
  Option.eq_none_iff_forall_ne_some.trans (forall_congr' fun _ => not_congr headerDepth_eq_some)

theorem ownChecks_decode_of_short {s : State} (h17 : s.latch.srcLen.toNat < 17) :
    firstError (ownChecks .cv2Dec s) = some .format :=
  (firstError_decodeChecks s).trans (if_pos h17)

theorem ownChecks_decode_of_noDepth {s : State} (h17 : 17 ≤ s.latch.srcLen.toNat)
    (h : ∀ d, s.mem.read s.latch.srcAddr.toNat ≠ depthByte d) :
    firstError (ownChecks .cv2Dec s) = some .unsupportedFormat := by
  rw [ownChecks, firstError_decodeChecks, if_neg (by omega), headerDepth_eq_none.mpr h]

/-- The own checks of CV2_DEC after those of the header's length and of its depth, in their order. -/
theorem ownChecks_decode_of_depth {d : Depth} {s : State} (h17 : 17 ≤ s.latch.srcLen.toNat)
    (h : s.mem.read s.latch.srcAddr.toNat = depthByte d) :
    firstError (ownChecks .cv2Dec s) =
      if d = .d8 ∧ s.palValid = false then some .missingPalette
      else if s32 (headerWidth s) < 1 ∨ s32 (headerHeight s) < 1 ∨ s32 (headerStride s) < s32 (headerWidth s) then
        some .format
      else if s.latch.srcLen.toNat - 17 < (headerHeight s).toNat * (headerStride s).toNat * psize d then some .format
      else if s.latch.dstCap.toNat < (headerWidth s).toNat * (headerHeight s).toNat * 4 then some .capacity
      else none := by
  rw [ownChecks, firstError_decodeChecks, if_neg (by omega), headerDepth_eq_some.mpr h]

/-! ### Completion (R250, R262) -/

theorem decodeImage_length (d : Depth) {s : State} (hst : (headerWidth s).toNat ≤ (headerStride s).toNat) :
    (decodeImage d s).length = (headerWidth s).toNat * (headerHeight s).toNat * 4 :=
  decodeBody_length _ _ _ _ _ _ hst

/-- A CV2_DEC of a header of depth `d` leaves all memory but the raster as it was. -/
theorem decodeWrites_sameMemoryOutside (d : Depth) {s : State}
    (hst : (headerWidth s).toNat ≤ (headerStride s).toNat) :
    SameMemoryOutside s ((decodeWrites d s).finish .none) s.latch.dstAddr.toNat
      ((headerWidth s).toNat * (headerHeight s).toNat * 4) := fun a ha =>
  Memory.read_writeBytes_of_outside _ _ _ _ (by rwa [decodeImage_length d hst])

/-- OUT_LEN is the size of the raster, which fits DST_CAP and so the register (R262). -/
theorem decodeWrites_outLen_toNat {d : Depth} {s : State} (h : DecodeReady d s) :
    ((decodeWrites d s).finish .none).outLen.toNat = (headerWidth s).toNat * (headerHeight s).toNat * 4 := by
  obtain ⟨_, _, _, _, _, _, _, _, _, _, _, hcap⟩ := h
  exact toNat_ofNat_of_le_word hcap

/-- The effect of a CV2_DEC that no check stops is the writes for its header's depth. -/
theorem effectOf_decode_of_ready {d : Depth} {s : State} (h : DecodeReady d s) :
    effectOf .cv2Dec s = decodeWrites d s := by
  obtain ⟨_, _, _, _, _, hbyte, _⟩ := h
  simp only [effectOf, decodeEffect, headerDepth_eq_some.mpr hbyte]

/-! ### Another memory with the same header and the same raster (R263) -/

/-- The header of the state in memory `m` reads as in its own memory, and the same raster is decoded from the body. -/
structure SameImageIn (d : Depth) (s : State) (m : Memory) : Prop where
  depth : headerDepth (s.withMem m) = headerDepth s
  width : headerWidth (s.withMem m) = headerWidth s
  height : headerHeight (s.withMem m) = headerHeight s
  stride : headerStride (s.withMem m) = headerStride s
  image : decodeImage d (s.withMem m) = decodeImage d s

theorem SameImageIn.decodeReady_withMem {d : Depth} {s : State} {m : Memory} (h : SameImageIn d s m)
    (hready : DecodeReady d s) : DecodeReady d (s.withMem m) := by
  obtain ⟨ho, hsrc, hdst, hov, h17, hbyte, hpal, hdims⟩ := hready
  have hbyte' := headerDepth_eq_some.mp (h.depth.trans (headerDepth_eq_some.mpr hbyte))
  refine ⟨ho, hsrc, hdst, hov, h17, hbyte', hpal, ?_⟩
  rw [h.width, h.height, h.stride]
  exact hdims

theorem SameImageIn.decodeWrites_withMem {d : Depth} {s : State} {m : Memory} (h : SameImageIn d s m) :
    decodeWrites d (s.withMem m) =
      (decodeWrites d s).withMem (m.writeBytes s.latch.dstAddr.toNat (decodeImage d s)) := by
  rw [decodeWrites, h.image, h.width, h.height, h.stride]
  rfl

end Sys2Proof.Machine

section
open Sys2Proof Sys2Proof.Machine

/-- Settles O27: the common checks come first; once the dimensions are legal the s32 products are the unsigned ones the last
two checks compare. -/
theorem decodeErrorsInOrder : Obligations.DecodeErrorsInOrder := by
  unfold Obligations.DecodeErrorsInOrder
  intro s
  refine ⟨failsWith_alreadyExists rfl, fun ho hr => failsWith_of_common (commonChecks_range (.inr ho) hr), fun hc =>
    ⟨fun hshort => failsWith_of_own hc (ownChecks_decode_of_short hshort), fun h17 =>
      ⟨fun hno => failsWith_of_own hc (ownChecks_decode_of_noDepth h17 hno), fun d hbyte => ?_⟩⟩⟩
  have hown := ownChecks_decode_of_depth h17 hbyte
  refine ⟨fun hpal => ?_, fun hpal => ⟨fun hdims => ?_, fun hw hh hst => ?_⟩⟩
  · exact failsWith_of_own hc (by rw [hown, if_pos hpal])
  · exact failsWith_of_own hc (by rw [hown, if_neg hpal, if_pos hdims])
  · rw [if_neg hpal, if_neg (by omega)] at hown
    rw [s32_mul_eq_toNat hh (hw.trans hst), s32_mul_eq_toNat hw hh,
      show (s.latch.srcLen.toNat : Int) - 17 = (s.latch.srcLen.toNat - 17 : Nat) by omega]
    norm_cast
    refine ⟨fun hbody => ?_, fun hbody => ⟨fun hcap => ?_, fun hcap => ?_⟩⟩
    · exact failsWith_of_own hc (by rw [hown, if_pos hbody])
    · exact failsWith_of_own hc (by rw [hown, if_neg (by omega), if_pos hcap])
    · exact ⟨_, exec_of_commonPass hc (by rw [hown, if_neg (by omega), if_neg (by omega)]), rfl⟩

/-- Settles O28: the effect is one write of the raster at the destination, and the registers; each pixel is what the unpack
multiplexer of its depth makes of its bytes in the body. -/
theorem decodeOutcome : Obligations.DecodeOutcome := by
  unfold Obligations.DecodeOutcome
  intro d s hready
  have hst := headerWidth_le_headerStride hready
  have hcompletes : Completes s ((decodeWrites d s).finish .none) := by
    rw [← effectOf_decode_of_ready hready]
    exact effectOf_completes .cv2Dec s
  refine ⟨_, exec_decode_of_ready hready, hcompletes, ⟨rfl, rfl, rfl, rfl⟩, ⟨rfl, rfl⟩, rfl, rfl,
    rfl, rfl, rfl, rfl, decodeWrites_outLen_toNat hready, decodeWrites_sameMemoryOutside d hst, fun x y p c hx hy hp hc => ?_⟩
  rw [decodeWrites_pixel d hst hx hy, ← hp] at hc
  subst hc
  refine ⟨?_, ?_, ?_⟩
  · rintro rfl
    rfl
  · rintro rfl
    rfl
  · rintro (rfl | rfl) <;> rfl

/-- Settles O29: the header's fields and the raster are the same in the other memory, so the same checks pass and the same
bytes are written there. -/
theorem decodeIgnoresReservedFieldAndPadding : Obligations.DecodeIgnoresReservedFieldAndPadding := by
  unfold Obligations.DecodeIgnoresReservedFieldAndPadding
  intro d s m hready hheader hpixels
  obtain ⟨hd, hw, hh, hst, himg⟩ := decodeImage_congr d s m hheader hpixels
  have hsame : SameImageIn d s m := ⟨hd, hw, hh, hst, himg⟩
  have hexec := exec_decode_of_ready (hsame.decodeReady_withMem hready)
  rw [hsame.decodeWrites_withMem] at hexec
  have hstride := headerWidth_le_headerStride hready
  refine ⟨_, _, exec_decode_of_ready hready, hexec, rfl, rfl, fun a hlo hhi => ?_⟩
  rw [decodeWrites_outLen_toNat hready, ← decodeImage_length d hstride] at hhi
  exact Memory.read_writeBytes_congr le_rfl a hlo hhi

end

/-! SUPPORT. How a command ends, said once for every command (60_exceptions.md R302-R307): the error it ends with is the first
check that applies, the common checks before its own, and an error leaves everything else as it was. -/

namespace Sys2Proof.Machine

/-! ### The error a command ends with -/

theorem FailsWith.eq_finish {i : Instr} {s t : State} {e : ErrCode} (hf : FailsWith i s e) (h : exec i s = .next t) :
    t = s.finish e := by
  unfold FailsWith at hf
  rw [h] at hf
  cases hf
  rfl

/-- With the common checks passed, ERR is the first error of the command's own checks, or none (R304 step 4). -/
theorem exec_err_of_commonPass {i : Instr} {s t : State} (hc : CommonPass i s) (h : exec i s = .next t) :
    t.err = (firstError (ownChecks i s)).getD .none := by
  cases ho : firstError (ownChecks i s) with
  | some e => rw [(failsWith_of_own hc ho).eq_finish h, State.finish_err, Option.getD_some]
  | none =>
    rw [exec_of_commonPass hc ho] at h
    cases h
    rfl

/-- ALREADY_EXISTS and RANGE come of the common checks only. -/
theorem firstError_ownChecks_getD (i : Instr) (s : State) :
    (firstError (ownChecks i s)).getD .none ≠ .alreadyExists ∧ (firstError (ownChecks i s)).getD .none ≠ .range := by
  cases ho : firstError (ownChecks i s) with
  | some e =>
    obtain ⟨hexists, hrange, _⟩ := ownChecks_mem (firstError_mem ho)
    exact ⟨hexists, hrange⟩
  | none => exact ⟨nofun, nofun⟩

theorem not_occupied_iff {i : Instr} {s : State} :
    ¬ (usesDst i = true ∧ s.dstOcc = true) ↔ usesDst i = false ∨ s.dstOcc = false := by
  rw [not_and_or, Bool.not_eq_true, Bool.not_eq_true]

/-- The three stages at which a command's error is decided, in the order of R304. -/
theorem exec_err_cases {i : Instr} {s t : State} (h : exec i s = .next t) :
    ((usesDst i = true ∧ s.dstOcc = true) ∧ t.err = .alreadyExists) ∨
    (((usesDst i = false ∨ s.dstOcc = false) ∧ RangeFails i s) ∧ t.err = .range) ∨
    (CommonPass i s ∧ t.err = (firstError (ownChecks i s)).getD .none) := by
  by_cases ho : usesDst i = true ∧ s.dstOcc = true
  · exact .inl ⟨ho, congrArg State.err ((failsWith_alreadyExists ho.1 ho.2).eq_finish h)⟩
  · have ho' := not_occupied_iff.mp ho
    by_cases hr : RangeFails i s
    · exact .inr (.inl ⟨⟨ho', hr⟩, congrArg State.err ((failsWith_of_common (commonChecks_range ho' hr)).eq_finish h)⟩)
    · exact .inr (.inr ⟨⟨ho', hr⟩, exec_err_of_commonPass ⟨ho', hr⟩ h⟩)

theorem exec_err_alreadyExists_iff {i : Instr} {s t : State} (h : exec i s = .next t) :
    t.err = .alreadyExists ↔ usesDst i = true ∧ s.dstOcc = true := by
  rcases exec_err_cases h with ⟨hocc, he⟩ | ⟨⟨hfree, _⟩, he⟩ | ⟨⟨hfree, _⟩, he⟩
  · exact iff_of_true he hocc
  · exact iff_of_false (by simp [he]) (not_occupied_iff.mpr hfree)
  · exact iff_of_false (he ▸ (firstError_ownChecks_getD i s).1) (not_occupied_iff.mpr hfree)

theorem exec_err_range_iff {i : Instr} {s t : State} (h : exec i s = .next t) :
    t.err = .range ↔ (usesDst i = false ∨ s.dstOcc = false) ∧ RangeFails i s := by
  rcases exec_err_cases h with ⟨⟨hu, ho⟩, he⟩ | ⟨hfails, he⟩ | ⟨⟨_, hr⟩, he⟩
  · exact iff_of_false (by simp [he]) (by simp [hu, ho])
  · exact iff_of_true he hfails
  · exact iff_of_false (he ▸ (firstError_ownChecks_getD i s).2) fun hfails => hr hfails.2

/-! ### The palette readers (R306) -/

/-- The commands that read the palette store, CV2_DEC by the header byte at its latched source. -/
def ReadsPalette (i : Instr) (s : State) : Prop :=
  i = .palSave ∨ i = .lookup ∨ i = .cv2Enc8 ∨
    (i = .cv2Dec ∧ 17 ≤ s.latch.srcLen.toNat ∧ s.mem.read s.latch.srcAddr.toNat = 8)

theorem depthByte_eq_8_iff {d : Depth} : depthByte d = 8 ↔ d = .d8 := by
  cases d <;> decide

theorem encodeChecks_missingPalette_iff {i : Instr} {d : Depth} (hi : encodeDepth i = some d) (s : State) :
    firstError (ownChecks i s) = some .missingPalette ↔ d = .d8 ∧ s.palValid = false := by
  rw [ownChecks_encode hi]
  split_ifs with hpal <;> simp [hpal]

theorem decodeChecks_missingPalette_iff (s : State) :
    firstError (ownChecks .cv2Dec s) = some .missingPalette ↔
      s.palValid = false ∧ 17 ≤ s.latch.srcLen.toNat ∧ s.mem.read s.latch.srcAddr.toNat = 8 := by
  by_cases h17 : 17 ≤ s.latch.srcLen.toNat
  case neg =>
    rw [ownChecks_decode_of_short (Nat.lt_of_not_le h17)]
    exact iff_of_false nofun fun ⟨_, hlen, _⟩ => h17 hlen
  cases hd : headerDepth s with
  | none =>
    have hno := headerDepth_eq_none.mp hd
    rw [ownChecks_decode_of_noDepth h17 hno]
    exact iff_of_false nofun fun ⟨_, _, h8⟩ => hno .d8 h8
  | some d =>
    have hbyte := headerDepth_eq_some.mp hd
    rw [ownChecks_decode_of_depth h17 hbyte, hbyte, depthByte_eq_8_iff]
    split_ifs with hpal
    · exact iff_of_true rfl ⟨hpal.2, h17, hpal.1⟩
    all_goals exact iff_of_false nofun fun ⟨hpv, _, hd8⟩ => hpal ⟨hd8, hpv⟩

/-- MISSING_PALETTE is among a command's own errors exactly where it reads the store and PAL_VALID is 0. -/
theorem firstError_ownChecks_missingPalette_iff {i : Instr} {s : State} :
    firstError (ownChecks i s) = some .missingPalette ↔ s.palValid = false ∧ ReadsPalette i s := by
  unfold ReadsPalette
  cases i
  case palLoad => rw [ownChecks_palLoad]; split <;> simp
  case palSet imm => rw [ownChecks_palSet]; split <;> simp
  case palSwatch => rw [ownChecks_palSwatch]; split_ifs <;> simp
  case palInval => simp [ownChecks]
  case palSave => rw [ownChecks_palSave]; split_ifs with hpv <;> simp [hpv]
  case lookup => rw [ownChecks_lookup]; split_ifs with hpv <;> simp [hpv]
  case cv2Dec => simp [decodeChecks_missingPalette_iff]
  case cv2Enc8 => simp [encodeChecks_missingPalette_iff (i := .cv2Enc8) rfl]
  case cv2Enc16 => simp [encodeChecks_missingPalette_iff (i := .cv2Enc16) rfl]
  case cv2Enc24 => simp [encodeChecks_missingPalette_iff (i := .cv2Enc24) rfl]
  case cv2Enc32 => simp [encodeChecks_missingPalette_iff (i := .cv2Enc32) rfl]

/-! ### What completion leaves -/

theorem exec_ie {i : Instr} {s t : State} (h : exec i s = .next t) : t.ie = s.ie := by
  rcases exec_cases i s with ⟨e, _, h'⟩ | ⟨_, h'⟩ <;> rw [h] at h' <;> cases h'
  · rfl
  · obtain ⟨_, hie, _⟩ := effectOf_keptByCommands i s
    exact hie

theorem exec_dstOcc_of_not_usesDst {i : Instr} {s t : State} (hu : usesDst i = false) (h : exec i s = .next t) :
    t.dstOcc = s.dstOcc := by
  rcases exec_cases i s with ⟨e, _, h'⟩ | ⟨_, h'⟩ <;> rw [h] at h' <;> cases h'
  · rfl
  · obtain ⟨_, hocc, _⟩ := effectOf_noOutput i s hu
    exact hocc

/-! ### An illegal word (R308) and the interrupt output (R310) -/

theorem State.issue_of_illegal {s : State} {v : Word} (h : wordLegal v = false) :
    s.issue v = { s.accept v with wait := 0 } := by
  obtain ⟨r, hr⟩ := decode_error_iff.mpr h
  rw [State.issue, hr]

theorem step_of_latched_illegal {s : State} (ht : s.engineTurn = true) (h : wordLegal s.latch.cmd = false) :
    step s = .next (s.finish .illegalCmd) := by
  obtain ⟨r, hr⟩ := decode_error_iff.mpr h
  rw [step_engine ht, engineStep_error hr]

theorem State.irq_iff {s : State} : s.irq = true ↔ s.ie = true ∧ s.done = true := Bool.and_eq_true_iff

theorem State.irq_of_not_done {s : State} (h : s.done = false) : s.irq = false := by
  rw [State.irq, h, Bool.and_false]

theorem State.irq_of_done {s : State} (h : s.done = true) : s.irq = s.ie := by
  rw [State.irq, h, Bool.and_true]

theorem State.issue_done (s : State) (v : Word) : (s.issue v).done = false := by
  obtain ⟨w, l, h⟩ := s.issue_eq v
  rw [h]
  rfl

theorem State.writeOffset_regOffset_idle {s : State} (h : s.engine = .idle) (r : Reg) (v : Word) :
    s.writeOffset (regOffset r) v = s.writeReg r v := by
  rw [State.writeOffset_regOffset, if_neg (by simp [h])]

end Sys2Proof.Machine

section
open Sys2Proof Sys2Proof.Machine

/-- Settles O7: the write is the host's turn and issues the word with no latency, so the engine has the next turn and the word
it latched does not decode. -/
theorem illegalWordCompletesAtOnce : Obligations.IllegalWordCompletesAtOnce := by
  unfold Obligations.IllegalWordCompletesAtOnce
  intro s v rest hidle hs hillegal
  have hwrite := step_regWrite (r := .cmd) (State.engineTurn_of_idle hidle) hs
  rw [if_neg (by simp [hidle]), State.writeReg, State.issue_of_illegal hillegal] at hwrite
  exact ⟨_, _, hwrite, step_of_latched_illegal (State.engineTurn_iff.mpr ⟨rfl, .inl rfl⟩) hillegal, rfl, rfl⟩

/-- Settles O31: a command ends by completion; with an error that is all, and without one ERR is 0. -/
theorem everyCommandCompletesOnceAndErrorsChangeOnlyStatus :
    Obligations.EveryCommandCompletesOnceAndErrorsChangeOnlyStatus := by
  unfold Obligations.EveryCommandCompletesOnceAndErrorsChangeOnlyStatus
  intro i s
  rcases exec_cases i s with ⟨e, _, h⟩ | ⟨_, h⟩
  · exact ⟨_, h, rfl, rfl, fun _ => rfl⟩
  · exact ⟨_, h, rfl, rfl, fun he => absurd rfl he⟩

/-- Settles O32: the occupied destination is the first check of every destination writer; success of one sets DST_OCC, and
the other commands have no output. -/
theorem neverOverwriteAnOccupiedDestination : Obligations.NeverOverwriteAnOccupiedDestination := by
  unfold Obligations.NeverOverwriteAnOccupiedDestination
  intro i s t h
  have hiff := exec_err_alreadyExists_iff h
  refine ⟨hiff, fun he => ?_, fun he hu => exec_occupies hu h he, fun hu => exec_dstOcc_of_not_usesDst hu h⟩
  obtain ⟨hu, ho⟩ := hiff.mp he
  rw [(failsWith_alreadyExists hu ho).eq_finish h]
  exact ⟨fun _ => rfl, ho⟩

/-- Settles O33: RANGE is raised by the window checks of R99 alone, which come right after ALREADY_EXISTS. -/
theorem rangeExactlyForIllegalWindows : Obligations.RangeExactlyForIllegalWindows := by
  unfold Obligations.RangeExactlyForIllegalWindows
  exact fun _ _ _ h => exec_err_range_iff h

/-- Settles O34: MISSING_PALETTE is an own check of the palette readers alone, the first after the header's length and depth. -/
theorem missingPaletteExactlyForPaletteReaders : Obligations.MissingPaletteExactlyForPaletteReaders := by
  unfold Obligations.MissingPaletteExactlyForPaletteReaders
  refine fun i s => ⟨fun hc hpv hreads => ?_, fun t h he => firstError_ownChecks_missingPalette_iff.mp ?_⟩
  · exact failsWith_of_own hc (firstError_ownChecks_missingPalette_iff.mpr ⟨hpv, hreads⟩)
  · rcases exec_err_cases h with ⟨_, he'⟩ | ⟨_, he'⟩ | ⟨_, he'⟩ <;> rw [he] at he'
    · cases he'
    · cases he'
    · exact (Option.getD_eq_iff.mp he'.symm).resolve_right nofun

/-- Settles O48: completion sets DONE and keeps IE; the host's write to CTRL sets IE, and its writes to STATUS bit 1 and to CMD
clear DONE, as reset does. -/
theorem interruptFollowsDone : Obligations.InterruptFollowsDone := by
  unfold Obligations.InterruptFollowsDone
  refine ⟨fun _ => State.irq_iff, fun i s t h => ?_, fun s => State.irq_of_done rfl, fun s v hidle =>
    ⟨?_, fun hack => State.irq_of_not_done ?_, State.irq_of_not_done ?_⟩, fun _ => State.irq_of_not_done rfl⟩
  · rw [State.irq_of_done (exec_done h).2, exec_ie h]
  · change (s.writeOffset (regOffset .ctrl) v).irq = _
    rw [State.writeOffset_regOffset_idle hidle]
    rfl
  · change (s.writeOffset (regOffset .status) v).done = _
    rw [State.writeOffset_regOffset_idle hidle]
    simp [State.writeReg, hack]
  · change (s.writeOffset (regOffset .cmd) v).done = _
    rw [State.writeOffset_regOffset_idle hidle]
    exact State.issue_done s v

end

/-! SUPPORT. The reset input (70_reset_and_hazards.md R340-R342) and the end of a wait or of a run (R129, R349, R350): what a
reset keeps of memory and of the host, what the engine's turn leaves, and how a polling host uses up a command's latency. -/

namespace Sys2Proof.Machine

/-! ### A command cut short (R341) -/

theorem State.running_of_decode {s : State} {i : Instr} (h : decode s.latch.cmd = .ok i) : s.running = some i := by
  rw [State.running, h]

theorem State.abandon_of_idle {s : State} (h : s.engine = .idle) : s.abandon = s := by
  rw [State.abandon, State.isBusy_eq_false.mpr h]

theorem State.abandon_of_busy {s : State} {i : Instr} (h : s.engine = .busy) (hd : decode s.latch.cmd = .ok i) :
    s.abandon = if usesDst i then s.forgetWindow s.dstWindow else s := by
  rw [State.abandon, State.isBusy_iff.mpr h, State.running_of_decode hd]

theorem State.abandon_reads (s : State) : s.abandon.reads = s.reads := by
  unfold State.abandon
  split
  · split <;> rfl
  · rfl

/-- The bytes forgotten are no more than the window holds. -/
theorem State.forgetWindow_sameMemoryOutside (s : State) (w : Window) :
    SameMemoryOutside s (s.forgetWindow w) w.base w.len := by
  intro a ha
  rw [State.forgetWindow_mem]
  refine Memory.read_writeBytes_of_outside _ _ _ _ (ha.imp_right fun hhi => le_trans ?_ hhi)
  simp [freeBytes]

/-! ### The reset input (R340) -/

theorem State.pulseReset_mem (s : State) : s.pulseReset.mem = s.abandon.mem := rfl

theorem State.pulseReset_reads (s : State) : s.pulseReset.reads = s.reads := s.abandon_reads

/-- The PAL window is masked without a palette (R50). -/
theorem State.readReg_pal_of_not_valid {s : State} (h : s.palValid = false) (i : Byte) : s.readReg (.pal i) = 0 := by
  rw [State.readReg, h]
  rfl

/-- A reset gives every register its reset value; PAL_VALID is 0, so the store is not read. -/
theorem State.pulseReset_readReg (s : State) (r : Reg) : s.pulseReset.readReg r = State.reset.readReg r := by
  cases r
  case pal i => exact (State.readReg_pal_of_not_valid rfl i).trans (State.readReg_pal_of_not_valid rfl i).symm
  all_goals rfl

theorem State.pulseReset_readOffset (s : State) (off : BitVec 11) : s.pulseReset.readOffset off = 0 := by
  rw [← State.reset_readOffset off]
  simp only [State.readOffset, State.pulseReset_readReg]

theorem step_rst {s : State} {rest : List HostOp} (ht : s.engineTurn = false) (hs : s.script = .rst :: rest) :
    step s = .next (s.hostTurn rest).pulseReset := step_host_cons ht hs

/-! ### The end of a command and of a wait (R129, R349) -/

/-- The engine's turn is a completion, and it leaves the host's script alone. -/
theorem engineStep_finishes {s t : State} (h : engineStep s = .next t) :
    ∃ (u : State) (e : ErrCode), u.script = s.script ∧ t = u.finish e := by
  cases hd : decode s.latch.cmd with
  | error r =>
    rw [engineStep_error hd] at h
    cases h
    exact ⟨s, _, rfl, rfl⟩
  | ok i =>
    rw [engineStep_ok hd] at h
    rcases exec_cases i s with ⟨e, _, h'⟩ | ⟨_, h'⟩ <;> rw [h] at h' <;> cases h'
    · exact ⟨s, e, rfl, rfl⟩
    · exact ⟨effectOf i s, .none, effectOf_script i s, rfl⟩

/-- A poll of WAIT while BUSY uses up one host turn of the latency and stays at WAIT. -/
theorem step_waitIdle_busy {s : State} {rest : List HostOp} (h : s.engine = .busy) (hw : 0 < s.wait)
    (hs : s.script = .waitIdle :: rest) : step s = .next { s with wait := s.wait - 1 } := by
  have hbusy : (s.hostTurn rest).isBusy = true := State.isBusy_iff.mpr h
  rw [step_host_cons (State.engineTurn_of_wait hw (by simp [hs])) hs, hostPerform, hostWait, if_pos hbusy]
  simp [State.hostTurn, hs]

/-- After completion a poll of WAIT takes the host past it. -/
theorem step_waitIdle_idle {s : State} {rest : List HostOp} (h : s.engine = .idle) (hw : s.wait = 0)
    (hs : s.script = .waitIdle :: rest) : step s = .next { s with script := rest } := by
  have hidle : (s.hostTurn rest).isBusy = false := State.isBusy_eq_false.mpr h
  rw [step_host_cons (State.engineTurn_of_idle h) hs, hostPerform, hostWait, hidle, State.hostTurn, hw]
  rfl

/-- A host at WAIT polls until the latency is used up; the step after that is the engine's. -/
theorem run_of_waiting {s : State} {rest : List HostOp} (n : Nat) (hn : s.wait = n) (h : s.engine = .busy)
    (hs : s.script = .waitIdle :: rest) {t : State} (ht : engineStep { s with wait := 0 } = .next t) :
    Host.Core.run Sys2Proof.core (n + 1) s = .next t := by
  induction n generalizing s with
  | zero =>
    have hzero : { s with wait := 0 } = s := by rw [← hn]
    rw [hzero] at ht
    exact run_next ((step_engine (State.engineTurn_iff.mpr ⟨h, .inl hn⟩)).trans ht)
  | succ n ih =>
    rw [run_next (step_waitIdle_busy h (by omega) hs)]
    exact ih (s := { s with wait := s.wait - 1 }) (by simp [hn]) h hs ht

/-! ### The end of a run (R350) -/

theorem step_of_ended {s : State} (h : s.ended) : step s = .next s :=
  step_of_script_nil (State.engineTurn_of_idle h.2) h.1

end Sys2Proof.Machine

section
open Sys2Proof Sys2Proof.Machine

/-- Settles O8: each poll uses up one turn of latency, then the engine completes the command, and the next poll finds it IDLE. -/
theorem waitingHostSeesCompletion : Obligations.WaitingHostSeesCompletion := by
  unfold Obligations.WaitingHostSeesCompletion
  intro s rest hbusy hs
  obtain ⟨t, ht⟩ := engineStep_next { s with wait := 0 }
  have hrun := run_of_waiting s.wait rfl hbusy hs ht
  obtain ⟨u, e, hu, rfl⟩ := engineStep_finishes ht
  exact ⟨_, ht, rfl, hrun, run_snoc hrun (step_waitIdle_idle rfl rfl (hu.trans hs))⟩

/-- Settles O50: only a running command costs bytes of memory; all else of the PCE's state is that after reset. -/
theorem resetPulseClearsEveryRegister : Obligations.ResetPulseClearsEveryRegister := by
  unfold Obligations.ResetPulseClearsEveryRegister
  intro s rest hturn hs
  refine ⟨_, step_rst hturn hs, rfl, rfl, State.pulseReset_readOffset _, rfl, State.pulseReset_cfg _,
    State.pulseReset_script _, State.pulseReset_reads _, fun hidle a => ?_⟩
  rw [State.pulseReset_mem, State.abandon_of_idle (s := s.hostTurn rest) hidle]
  rfl

/-- Settles O51: memory changes only by the forgotten window of a command that writes one. -/
theorem resetWhileBusyTouchesOnlyTheDestination : Obligations.ResetWhileBusyTouchesOnlyTheDestination := by
  unfold Obligations.ResetWhileBusyTouchesOnlyTheDestination
  intro s t i rest hbusy hturn hdec hs hstep
  cases (step_rst hturn hs).symm.trans hstep
  have hmem := congrArg State.mem (State.abandon_of_busy (s := s.hostTurn rest) hbusy hdec)
  rw [← State.pulseReset_mem] at hmem
  refine ⟨rfl, rfl, rfl, rfl, rfl, fun hdst a ha => ?_, fun hdst a => ?_⟩
  · rw [hmem, if_pos hdst]
    exact (s.hostTurn rest).forgetWindow_sameMemoryOutside _ a ha
  · rw [hmem, if_neg (by simp [hdst])]
    rfl

/-- Settles O52: the step of an ended run answers its own state, and so does every number of them. -/
theorem endedRunStaysEnded : Obligations.EndedRunStaysEnded := by
  unfold Obligations.EndedRunStaysEnded
  intro s n hended
  induction n with
  | zero => rfl
  | succ n ih => exact (run_next (step_of_ended hended)).trans ih

end
